-- ==== Sys2Proof/Word.lean ====
section
/-! DEFINITION. The words of the interface and the pixel (R9, R11 to R13, R50, R56).
Nothing here is mendable later, so it holds types and nothing that computes. -/

namespace Sys2Proof

/-- One channel of a pixel: `CH_W` = 8 bits, unsigned (R9). -/
abbrev Byte := BitVec 8

/-- A slot index: `IDX_W` = 6 bits, unsigned, 0 to 63 (R9, R32). -/
abbrev SlotIdx := BitVec 6

/-- A pixel packed into one word: `PIX_W` = 32 bits (R9, R34). -/
abbrev PixelWord := BitVec 32

/-- A command word, 48 bits (R50). -/
abbrev CmdWord := BitVec 48

/-- A response word, 40 bits (R56). -/
abbrev RspWord := BitVec 40

/-- A pixel: four unsigned 8-bit channels; two pixels are equal iff all four channels are (R13). -/
structure Pixel where
  r : Byte
  g : Byte
  b : Byte
  a : Byte
  deriving DecidableEq, Repr, Inhabited

end Sys2Proof
end

