-- ==== Sys2Proof/Config.lean ====
section
/-! DEFINITION. The constants the spec fixes (R9), and what it leaves to each implementation (R10). -/

namespace Sys2Proof.Config

/-- `NSLOTS`: the number of slots (R9). -/
abbrev nSlots : Nat := 64

/-- The hash coefficients for r, g, b and a (R9); named once, as D21 and I1 ask (log entry 11). -/
@[simp] def coeffR : Nat := 3
@[simp] def coeffG : Nat := 5
@[simp] def coeffB : Nat := 7
@[simp] def coeffA : Nat := 11

/-- `SENTINEL`: what every slot holds after reset and after CLEAR (R9, R29). -/
def sentinel : Pixel := ⟨0, 0, 0, 0⟩

/-- The longest run the encoder's counter reaches before it flushes (R80). -/
def maxRun : Nat := 62

/-- The alpha of every pixel of an image without an alpha channel (R77). -/
def opaqueAlpha : Byte := 255

/-- What an implementation decides for itself. R10: a model takes these as arguments, and no rule of
the state transition depends on them; they settle when something appears, never what it holds (R112). -/
structure Impl where
  /-- `RSP_LATENCY` less one, so that the latency is at least 1 by its form (R10). -/
  rspLatencyPred : Nat
  /-- `CLEAR_CYCLES`, at least 0 (R10). -/
  clearCycles : Nat
  /-- A free value for each edge: how long `cmd_ready` then stays low (R105, R108, R109).
  After reset and after CLEAR it is bounded by `clearCycles`. Log entries 4 and 5. -/
  notReady : Nat → Nat
  /-- A free value for each edge: what `rsp` carries when no response appears (log entry 6). -/
  idleRsp : Nat → RspWord

/-- `RSP_LATENCY`, the cycles from a command's acceptance to its response (R10, R49). -/
def Impl.rspLatency (m : Impl) : Nat := m.rspLatencyPred + 1

/-- Free constants of the implementation: no body, so nothing can be proved of their values. -/
opaque rspLatencyPred : Nat
opaque clearCycles : Nat
opaque notReady : Nat → Nat
opaque idleRsp : Nat → RspWord

/-- The implementation the machine is: nothing is known of it but its form (log entries 3 to 6). -/
def impl : Impl := ⟨rspLatencyPred, clearCycles, notReady, idleRsp⟩

end Sys2Proof.Config
end

