-- ==== Sys2Proof/Syntax.lean ====
section
/-! DEFINITION. The command set: one constructor for each row of the opcode table (R52, R59).
A constructor carries only the operands its command reads (R54). Their types admit exactly the values
the fields of a command word have, so every term is a command the block executes (R37, R95). -/

namespace Sys2Proof

inductive Instr where
  /-- NOP (R70). -/
  | nop
  /-- CLEAR (R71). -/
  | clear
  /-- HASH of the pixel operand (R65). -/
  | hash (p : Pixel)
  /-- LOOKUP of the pixel operand (R66). -/
  | lookup (p : Pixel)
  /-- STORE of the pixel operand (R72). -/
  | store (p : Pixel)
  /-- READ of the slot `op.idx` (R67). -/
  | read (s : SlotIdx)
  /-- The reserved opcode 0b110 (R93). -/
  | reserved110
  /-- The reserved opcode 0b111 (R93). -/
  | reserved111
  deriving DecidableEq, Repr

end Sys2Proof
end

