-- ==== Sys2Proof/WellFormed.lean ====
section
/-! DEFINITION. The assembler's source statements (R61, R62) and what makes one well formed.
`Instr` needs no check: its operands' types hold exactly the values a command word can carry. A source
statement has operands as plain numbers, and R61 says which of them an assembler refuses. -/

namespace Sys2Proof

/-- One statement of assembler source, its operands as written (R61, R62). -/
inductive Source where
  | nop
  | clear
  | hash (r g b a : Nat)
  | lookup (r g b a : Nat)
  | store (r g b a : Nat)
  | read (idx : Nat)
  /-- `.word48`, a raw command word (R61). -/
  | word48 (w : Nat)
  /-- `DUMP`: READ 0 to READ 63 (R62). -/
  | dump
  /-- `INIT`: CLEAR (R62). -/
  | init
  /-- `PROBE`: LOOKUP (R62). -/
  | probe (r g b a : Nat)
  deriving DecidableEq, Repr

/-- R61: each channel is 0..255. -/
def channelsOk (r g b a : Nat) : Bool := r ≤ 255 && g ≤ 255 && b ≤ 255 && a ≤ 255

/-- R61: an index is 0..63. -/
def indexOk (idx : Nat) : Bool := idx ≤ 63

/-- R60: a command is exactly one 48-bit word. -/
def wordOk (w : Nat) : Bool := w < 2 ^ 48

/-- R61: the statements an assembler accepts. -/
def Source.wf : Source → Bool
  | .nop => true
  | .clear => true
  | .hash r g b a => channelsOk r g b a
  | .lookup r g b a => channelsOk r g b a
  | .store r g b a => channelsOk r g b a
  | .read idx => indexOk idx
  | .word48 w => wordOk w
  | .dump => true
  | .init => true
  | .probe r g b a => channelsOk r g b a

end Sys2Proof
end

