-- ==== Sys2Proof/Decode.lean ====
section
/-! DEFINITION. The two words of the interface, field by field: pixels (R34), commands (R50, R52 to R54)
and responses (R56); the decoder, total on every command word (R58), and after it the encoder. -/

namespace Sys2Proof

/-! ### Pixels (R13, R34) -/

/-- `word(p) = {p.r, p.g, p.b, p.a}` (R34). -/
def Pixel.word (p : Pixel) : PixelWord := p.r ++ p.g ++ p.b ++ p.a

/-- `pix(w)` (R13). -/
def Pixel.ofWord (w : PixelWord) : Pixel :=
  ⟨w.extractLsb' 24 8, w.extractLsb' 16 8, w.extractLsb' 8 8, w.extractLsb' 0 8⟩

/-! ### Command words (R50) -/

/-- The fields of a command word, all of them, the ignored ones too (R50). -/
structure Command where
  op : BitVec 3
  rsv : BitVec 7
  idx : SlotIdx
  pix : Pixel
  deriving DecidableEq, Repr

/-- The fields of a command word (R50). -/
def Command.unpack (w : CmdWord) : Command :=
  ⟨w.extractLsb' 45 3, w.extractLsb' 38 7, w.extractLsb' 32 6, Pixel.ofWord (w.extractLsb' 0 32)⟩

/-- The command word with the given fields (R50, R51). -/
def Command.pack (f : Command) : CmdWord := f.op ++ f.rsv ++ f.idx ++ f.pix.word

/-- The command that fields stand for. R52 says which by `op`, R54 which fields it reads; the reserved
field is ignored (R53). -/
def decodeCommand (f : Command) : Instr :=
  match f.op.toFin with
  | 0 => .nop
  | 1 => .clear
  | 2 => .hash f.pix
  | 3 => .lookup f.pix
  | 4 => .store f.pix
  | 5 => .read f.idx
  | 6 => .reserved110
  | 7 => .reserved111

/-- The decoder: every one of the 2^48 words selects one command (R58). -/
def decode (w : CmdWord) : Instr := decodeCommand (Command.unpack w)

/-- Why a delivery is no command word at all. -/
inductive DecodeError where
  /-- It is not one word of 48 bits (R60). -/
  | wrongLength (nbits : Nat)
  /-- Its value does not fit the bits it is said to have. -/
  | tooLarge (w : Nat)
  deriving DecidableEq, Repr

/-- Decode a number of `nbits` bits. A command is one 48-bit word (R60), bits above `nbits` read as 0,
and more than 48 bits are no command. -/
def decodeBits (nbits w : Nat) : Except DecodeError Instr :=
  if 48 < nbits then .error (.wrongLength nbits)
  else if 2 ^ nbits ≤ w then .error (.tooLarge w)
  else .ok (decode (BitVec.ofNat 48 w))

/-- The decoder on a word numbered as the opcode table numbers it. One command is one word on parallel
wires, so its bits are numbered as R11 numbers them and no byte order arises (log entry 14). -/
def decodeTableWord (nbits w : Nat) : Option Instr :=
  match decodeBits nbits w with
  | .ok i => some i
  | .error _ => none

/-! ### The encoder -/

/-- The `op` field of a command (R52). -/
def opcode : Instr → BitVec 3
  | .nop => 0b000
  | .clear => 0b001
  | .hash _ => 0b010
  | .lookup _ => 0b011
  | .store _ => 0b100
  | .read _ => 0b101
  | .reserved110 => 0b110
  | .reserved111 => 0b111

/-- The `idx` field an assembler writes: the operand of READ, zero where it is ignored (R54, R61). -/
def idxField : Instr → SlotIdx
  | .read s => s
  | .nop => 0
  | .clear => 0
  | .hash _ => 0
  | .lookup _ => 0
  | .store _ => 0
  | .reserved110 => 0
  | .reserved111 => 0

/-- The pixel field an assembler writes: the pixel operand, zero where it is ignored (R54, R61). -/
def pixField : Instr → Pixel
  | .hash p => p
  | .lookup p => p
  | .store p => p
  | .nop => ⟨0, 0, 0, 0⟩
  | .clear => ⟨0, 0, 0, 0⟩
  | .read _ => ⟨0, 0, 0, 0⟩
  | .reserved110 => ⟨0, 0, 0, 0⟩
  | .reserved111 => ⟨0, 0, 0, 0⟩

/-- The encoder: the command's fields with zero in every ignored one (R50, R52, R61). -/
def encode (i : Instr) : CmdWord := Command.pack ⟨opcode i, 0, idxField i, pixField i⟩

/-! ### Response words (R56) -/

/-- The fields of a response word (R56). -/
structure Response where
  err : Bool
  hit : Bool
  slot : SlotIdx
  pix : Pixel
  deriving DecidableEq, Repr

/-- Every response starts as all zeros (R57). -/
def Response.zero : Response := ⟨false, false, 0, ⟨0, 0, 0, 0⟩⟩

/-- The response word of given fields (R56). -/
def Response.pack (x : Response) : RspWord :=
  BitVec.ofBool x.err ++ BitVec.ofBool x.hit ++ x.slot ++ x.pix.word

/-- The fields of a response word, as a client reads them (R56). -/
def Response.unpack (w : RspWord) : Response :=
  ⟨w.getLsbD 39, w.getLsbD 38, w.extractLsb' 32 6, Pixel.ofWord (w.extractLsb' 0 32)⟩

end Sys2Proof
end

