-- ==== Sys2Proof/Machine/State.lean ====
section
/-! DEFINITION. The state of one instance, the signals at its pins, and the state right after reset
(R15, R30, R31, R47). -/

namespace Sys2Proof.Machine

/-- The slot array: exactly 64 pixels, indexed in order (R15, R16, R32). One value for each contents, so
equal arrays are equal data. -/
abbrev SlotArray := Vector Pixel Config.nSlots

/-- An accepted command whose response has not appeared yet: the response, and how many edges have passed
since its acceptance, that edge included (R30, R49). -/
structure Pending where
  rsp : RspWord
  age : Nat
  deriving DecidableEq, Repr

/-- What the outside drives at one rising edge of `clk` (R47). -/
structure PortIn where
  rst : Bool
  cmdValid : Bool
  cmd : CmdWord
  deriving DecidableEq, Repr

/-- Pins with no reset and no command offered. -/
def PortIn.idle : PortIn := ⟨false, false, 0⟩

/-- What the block drives in one cycle (R47). -/
structure PortOut where
  cmdReady : Bool
  rspValid : Bool
  rsp : RspWord
  deriving DecidableEq, Repr

/-- One instance, between two rising edges of `clk`. The spec's state is the slot array (R15) and what the
interface holds (R31); `input` and `edges` are the model's own (log entries 9 and 10). -/
structure State where
  /-- `cache[0..63]` (R15). -/
  cache : SlotArray
  /-- The response register `rsp` (R31, R47). -/
  rsp : RspWord
  /-- `rsp_valid` (R31, R47). -/
  rspValid : Bool
  /-- Commands in flight, oldest first (R31, R49). -/
  inflight : List Pending
  /-- For how many more edges without reset `cmd_ready` is low (R105, R108, R109). -/
  hold : Nat
  /-- What the outside drives at the coming edges; idle pins once the list is empty (R20, R47). -/
  input : List PortIn
  /-- The model's own: the edges so far, by which free values are picked (log entry 10). -/
  edges : Nat
  deriving DecidableEq, Repr

/-- Why the block would stop with a fault: never. Its one error is reported in the command's own response
and nothing stops (R93, R95, R98), so there is no constructor and nobody raises one. Safe. -/
inductive Fault where
  deriving DecidableEq, Repr

/-- Why a command would have no meaning. -/
inductive Refusal where
  /-- Raised by an arm of `exec` whose command has no meaning yet: none has this arm. Safe. -/
  | notModelled (mnemonic : String)
  deriving DecidableEq, Repr

/-- Right after reset, for any implementation: every slot the sentinel, the response register 0 and not
valid, nothing in flight, `cmd_ready` low for up to `CLEAR_CYCLES` more cycles (R29 to R31, R104, R105). -/
def State.resetWith (m : Config.Impl) : State where
  cache := Vector.replicate Config.nSlots Config.sentinel
  rsp := 0
  rspValid := false
  inflight := []
  hold := min (m.notReady 0) m.clearCycles
  input := []
  edges := 1

/-- The machine right after reset (R31). Its pins are idle until the outside drives them (log entry 9). -/
def State.reset : State := State.resetWith Config.impl

end Sys2Proof.Machine
end

