-- ==== Sys2Proof/Machine/Ops.lean ====
section
/-! DEFINITION. The shared operations: the slots (R14, R32), what one command does (R39), the error
response (R93), and the hand-over of a response to the port (R49). -/

namespace Sys2Proof.Machine

/-- `cache[s]`, also `MemRead(s)` (R14). Every index names a slot (R37). -/
def readSlot (t : SlotArray) (s : SlotIdx) : Pixel := t.get s.toFin

/-- `cache[s] <- p`, also `MemWrite(s, p)` (R14): the whole pixel, no other slot (R38). -/
def writeSlot (t : SlotArray) (s : SlotIdx) (p : Pixel) : SlotArray := t.set s.toNat p s.isLt

/-- Every slot the sentinel: what reset and CLEAR leave (R29, R71). -/
def clearedSlots : SlotArray := Vector.replicate Config.nSlots Config.sentinel

/-- What one command does: the slots it leaves and its response (R39). -/
structure Tx where
  slots : SlotArray
  rsp : Response
  deriving DecidableEq, Repr

/-- `raise Error(RESERVED_OP)`: `err` is set, no other field, and no state is written (R14, R93). This is
the block's only exception; nothing is saved, control goes nowhere (R98), and there is no return (R99). -/
def raiseReservedOp (t : SlotArray) : Tx := ⟨t, { Response.zero with err := true }⟩

/-- A command takes effect: the slots become what it leaves, and its response is in flight behind those of
all earlier commands (R39, R49). -/
def State.commit (s : State) (x : Tx) : State :=
  { s with cache := x.slots, inflight := s.inflight ++ [⟨x.rsp.pack, 0⟩] }

end Sys2Proof.Machine
end

