-- ==== Sys2Proof/Machine/Operands.lean ====
section
/-! DEFINITION. How a command's operand names a slot: by the hash of a pixel, or as it stands (R33, R55). -/

namespace Sys2Proof.Machine

/-- The exact sum under the hash, at most 6630 (R63). -/
def hashSum (p : Pixel) : Nat :=
  Config.coeffR * p.r.toNat + Config.coeffG * p.g.toNat + Config.coeffB * p.b.toNat
    + Config.coeffA * p.a.toNat

/-- `hash(p)`, the source's `slot_for(p)` (R63). -/
def slotHash (p : Pixel) : SlotIdx := BitVec.ofNat 6 (hashSum p % Config.nSlots)

/-- The same sum in wrap-around arithmetic of `n` bits (R64). -/
def hashSumAtWidth (n : Nat) (p : Pixel) : BitVec n :=
  BitVec.ofNat n Config.coeffR * p.r.setWidth n + BitVec.ofNat n Config.coeffG * p.g.setWidth n
    + BitVec.ofNat n Config.coeffB * p.b.setWidth n + BitVec.ofNat n Config.coeffA * p.a.setWidth n

/-- The slot a pixel operand reaches: LOOKUP and STORE (R33). -/
def slotOfPixel (p : Pixel) : SlotIdx := slotHash p

/-- The slot an index operand reaches: READ. Unsigned, no scaling, offset or extension (R33, R55). -/
def slotOfIndex (s : SlotIdx) : SlotIdx := s

end Sys2Proof.Machine
end

