-- ==== Sys2Proof/Machine/Flags.lean ====
section
/-! DEFINITION. The two flag bits of a response (R21, R56). No flag persists (R21). -/

namespace Sys2Proof.Machine

/-- `hit`: the slot held exactly the pixel asked for, all four channels compared (R56, R66). -/
def hitFlag (held asked : Pixel) : Bool := decide (held = asked)

/-- The response of LOOKUP and STORE: the slot, whether it held the pixel, and what it held before the
command (R66, R72). -/
def probeResponse (t : SlotArray) (p : Pixel) : Response :=
  { Response.zero with
    slot := slotOfPixel p
    hit := hitFlag (readSlot t (slotOfPixel p)) p
    pix := readSlot t (slotOfPixel p) }

end Sys2Proof.Machine
end

