-- ==== Sys2Proof/Machine/Query.lean ====
section
/-! DEFINITION. HASH, LOOKUP and READ (40_query.md). None writes a slot (R69). -/

namespace Sys2Proof.Machine

/-- HASH (R65): `rsp.slot <- hash(p)`. -/
def hashTx (p : Pixel) (t : SlotArray) : Tx := ⟨t, { Response.zero with slot := slotHash p }⟩

/-- LOOKUP (R66): the slot of `p`, whether it holds `p`, and what it holds. -/
def lookupTx (p : Pixel) (t : SlotArray) : Tx := ⟨t, probeResponse t p⟩

/-- READ (R67): the slot `op.idx` and what it holds, unchecked. -/
def readTx (s : SlotIdx) (t : SlotArray) : Tx :=
  ⟨t, { Response.zero with slot := slotOfIndex s, pix := readSlot t (slotOfIndex s) }⟩

/-- The meaning of HASH (R65). -/
def execHash (p : Pixel) (s : State) : Host.Outcome State Fault Refusal :=
  .next (s.commit (hashTx p s.cache))

/-- The meaning of LOOKUP (R66). -/
def execLookup (p : Pixel) (s : State) : Host.Outcome State Fault Refusal :=
  .next (s.commit (lookupTx p s.cache))

/-- The meaning of READ (R67). -/
def execRead (k : SlotIdx) (s : State) : Host.Outcome State Fault Refusal :=
  .next (s.commit (readTx k s.cache))

end Sys2Proof.Machine
end

