-- ==== Sys2Proof/Machine/Reserved.lean ====
section
/-! DEFINITION. The reserved opcodes 0b110 and 0b111 (R59, R93): an error response and no state change. -/

namespace Sys2Proof.Machine

/-- What the opcode 0b110 does (R93). -/
def reserved110Tx (t : SlotArray) : Tx := raiseReservedOp t

/-- What the opcode 0b111 does (R93). -/
def reserved111Tx (t : SlotArray) : Tx := raiseReservedOp t

/-- The meaning of the opcode 0b110 (R93). -/
def execReserved110 (s : State) : Host.Outcome State Fault Refusal :=
  .next (s.commit (reserved110Tx s.cache))

/-- The meaning of the opcode 0b111 (R93). -/
def execReserved111 (s : State) : Host.Outcome State Fault Refusal :=
  .next (s.commit (reserved111Tx s.cache))

end Sys2Proof.Machine
end

