-- ==== Sys2Proof/Machine/Update.lean ====
section
/-! DEFINITION. NOP, CLEAR and STORE (41_update.md). -/

namespace Sys2Proof.Machine

/-- NOP (R70): nothing, and the response is 0. -/
def nopTx (t : SlotArray) : Tx := ⟨t, Response.zero⟩

/-- CLEAR (R71): every slot becomes the sentinel in one step, and the response is 0. -/
def clearTx (_t : SlotArray) : Tx := ⟨clearedSlots, Response.zero⟩

/-- STORE (R72): slot `hash(p)` becomes `p`; the response is taken from its old contents. -/
def storeTx (p : Pixel) (t : SlotArray) : Tx :=
  ⟨writeSlot t (slotOfPixel p) p, probeResponse t p⟩

/-- The meaning of NOP (R70). -/
def execNop (s : State) : Host.Outcome State Fault Refusal := .next (s.commit (nopTx s.cache))

/-- The meaning of CLEAR (R71). -/
def execClear (s : State) : Host.Outcome State Fault Refusal := .next (s.commit (clearTx s.cache))

/-- The meaning of STORE (R72). -/
def execStore (p : Pixel) (s : State) : Host.Outcome State Fault Refusal :=
  .next (s.commit (storeTx p s.cache))

end Sys2Proof.Machine
end

