-- ==== Sys2Proof/Machine/Edge.lean ====
section
/-! DEFINITION. One rising edge of `clk`: reset (R104), acceptance (R48), and the appearance of responses
(R49), for any implementation (R10). -/

namespace Sys2Proof.Machine

/-- What the outside drives at the coming edge; idle pins once nothing is listed. -/
def State.pins (s : State) : PortIn := s.input.headD PortIn.idle

/-- The coming edge's signals are taken off the list. -/
def State.takeInput (s : State) : State := { s with input := s.input.tail }

/-- `cmd_ready` in the cycle before the coming edge: low while `rst = 1` and while `hold` lasts (R31). -/
def State.cmdReady (s : State) : Bool := !s.pins.rst && s.hold == 0

/-- What the block drives in the cycle before the coming edge. While `rst` is asserted `rsp_valid = 0` and
`rsp = 0` (R30); log entry 7. -/
def State.outputs (s : State) : PortOut where
  cmdReady := s.cmdReady
  rspValid := !s.pins.rst && s.rspValid
  rsp := if s.pins.rst then 0 else s.rsp

/-- R48: a command is accepted where `rst = 0`, `cmd_valid = 1` and `cmd_ready = 1`. -/
def State.accepts (s : State) : Bool := !s.pins.rst && s.pins.cmdValid && s.cmdReady

/-- The command word accepted at the coming edge, if any (R48). -/
def State.acceptedWord (s : State) : Option CmdWord := if s.accepts then some s.pins.cmd else none

/-- R104: what an edge with `rst = 1` leaves. Every slot is the sentinel, what was in flight is discarded,
no response is valid; `cmd_ready` may then stay low for up to `CLEAR_CYCLES` cycles (R105). -/
def resetEdge (m : Config.Impl) (s : State) : State :=
  { s with
    cache := clearedSlots
    rsp := 0
    rspValid := false
    inflight := []
    hold := min (m.notReady s.edges) m.clearCycles
    edges := s.edges + 1 }

/-- For how long `cmd_ready` is low once a command is accepted. After CLEAR at most `CLEAR_CYCLES` (R109);
after another command a free number of edges (R108, log entry 5). -/
def holdAfter (m : Config.Impl) (i : Instr) (n : Nat) : Nat :=
  if i = .clear then min (m.notReady n) m.clearCycles else m.notReady n

/-- One more edge has passed for everything in flight. -/
def aged (l : List Pending) : List Pending := l.map fun p => { p with age := p.age + 1 }

/-- The response that appears, if the oldest in flight has waited `RSP_LATENCY` edges, and what is then
still in flight (R49). -/
def popDue (m : Config.Impl) : List Pending → Option RspWord × List Pending
  | [] => (none, [])
  | p :: rest => if m.rspLatency ≤ p.age then (some p.rsp, rest) else (none, p :: rest)

/-- The end of an edge without reset: time passes for what is in flight, at most one response appears for
exactly this cycle (R47, R49), and `cmd_ready` stays low for `h` more edges. Where none appears `rsp` is a
free value (log entry 6). -/
def finishEdge (m : Config.Impl) (h : Nat) (s : State) : State :=
  { s with
    rsp := (popDue m (aged s.inflight)).1.getD (m.idleRsp s.edges)
    rspValid := (popDue m (aged s.inflight)).1.isSome
    inflight := (popDue m (aged s.inflight)).2
    hold := h
    edges := s.edges + 1 }

/-- An edge at which a command is accepted: it takes effect, and the edge ends. -/
def acceptEdge (m : Config.Impl) (i : Instr) (s : State) : Host.Outcome State Fault Refusal :=
  match exec i s with
  | .next t => .next (finishEdge m (holdAfter m i s.edges) t)
  | .fault r => .fault r
  | .refused r => .refused r

/-- One rising edge of `clk`, for any implementation. -/
def stepWith (m : Config.Impl) (s : State) : Host.Outcome State Fault Refusal :=
  if s.pins.rst then .next (resetEdge m s.takeInput)
  else if s.accepts then acceptEdge m (decode s.pins.cmd) s.takeInput
  else .next (finishEdge m (s.hold - 1) s.takeInput)

/-- The signals that offer one command word for the coming edge. -/
def offer (w : CmdWord) : PortIn := ⟨false, true, w⟩

/-- The state with a command word offered at the very next edge, and the block ready to take it. -/
def State.offering (s : State) (w : CmdWord) : State :=
  { s with input := offer w :: s.input, hold := 0 }

end Sys2Proof.Machine
end

