-- ==== Sys2Proof/Machine/Step.lean ====
section
/-! DEFINITION. The step: one rising edge of `clk` of the implementation the machine is. -/

namespace Sys2Proof.Machine

/-- One rising edge of `clk` (R47). -/
def step (s : State) : Host.Outcome State Fault Refusal := stepWith Config.impl s

/-- `s` with the command word `w` on the pins for the next edge and the block ready to accept it (R48),
so that the next step executes it. Bits of `w` above `nbits` are dropped. Log entry 9. -/
def State.withFetchWord (s : State) (nbits w : Nat) : State :=
  s.offering (BitVec.ofNat 48 (w % 2 ^ nbits))

end Sys2Proof.Machine
end

