-- ==== Sys2Proof/Machine/Transaction.lean ====
section
/-! DEFINITION. The block as its clients see it, without time: one command from the slots to the slots and
a response, and such steps folded over a command sequence (R39, R49). -/

namespace Sys2Proof.Machine

/-- R39's `step : (Fin 64 → Pixel) → Cmd → (Fin 64 → Pixel) × Rsp`. -/
def transact (t : SlotArray) (i : Instr) : Tx :=
  match i with
  | .nop => nopTx t
  | .clear => clearTx t
  | .hash p => hashTx p t
  | .lookup p => lookupTx p t
  | .store p => storeTx p t
  | .read k => readTx k t
  | .reserved110 => reserved110Tx t
  | .reserved111 => reserved111Tx t

/-- A command word in, the slots and a response word out (R39, R50, R56). -/
def issue (t : SlotArray) (w : CmdWord) : SlotArray × RspWord :=
  ((transact t (decode w)).slots, (transact t (decode w)).rsp.pack)

/-- The slots after a command sequence, and the responses in acceptance order (R39, R49). -/
def runInstrs (t : SlotArray) : List Instr → SlotArray × List Response
  | [] => (t, [])
  | i :: is =>
    ((runInstrs (transact t i).slots is).1, (transact t i).rsp :: (runInstrs (transact t i).slots is).2)

/-- The same over command words. -/
def runWords (t : SlotArray) : List CmdWord → SlotArray × List RspWord
  | [] => (t, [])
  | w :: ws => ((runWords (issue t w).1 ws).1, (issue t w).2 :: (runWords (issue t w).1 ws).2)

end Sys2Proof.Machine
end

