-- ==== Sys2Proof/Machine/Assembler.lean ====
section
/-! DEFINITION. The assembler of R61 and its pseudo-instructions (R62): source statements to command
words, and lines of text to source statements. -/

namespace Sys2Proof.Machine

/-- Why an assembler refuses a statement. -/
inductive AsmError where
  /-- A channel outside 0..255 (R61). -/
  | channelRange
  /-- An index outside 0..63 (R61). -/
  | indexRange
  /-- A raw word of more than 48 bits (R60). -/
  | wordRange
  /-- No statement of R61 or R62. -/
  | badSyntax
  deriving DecidableEq, Repr

/-- The pixel of four channels as written. -/
def pixelOfNats (r g b a : Nat) : Pixel :=
  ⟨BitVec.ofNat 8 r, BitVec.ofNat 8 g, BitVec.ofNat 8 b, BitVec.ofNat 8 a⟩

/-- `DUMP`: READ of every slot in index order (R62). -/
def dumpInstrs : List Instr := (List.range Config.nSlots).map fun k => .read (BitVec.ofNat 6 k)

/-- The command words of a statement: operands placed by R50, zero in every ignored field (R61, R62). -/
def sourceWords : Source → List CmdWord
  | .nop => [encode .nop]
  | .clear => [encode .clear]
  | .hash r g b a => [encode (.hash (pixelOfNats r g b a))]
  | .lookup r g b a => [encode (.lookup (pixelOfNats r g b a))]
  | .store r g b a => [encode (.store (pixelOfNats r g b a))]
  | .read idx => [encode (.read (BitVec.ofNat 6 idx))]
  | .word48 w => [BitVec.ofNat 48 w]
  | .dump => dumpInstrs.map encode
  | .init => [encode .clear]
  | .probe r g b a => [encode (.lookup (pixelOfNats r g b a))]

/-- Why a statement that is not well formed is refused (R61). -/
def rangeError : Source → AsmError
  | .read _ => .indexRange
  | .word48 _ => .wordRange
  | .nop => .badSyntax
  | .clear => .badSyntax
  | .dump => .badSyntax
  | .init => .badSyntax
  | .hash _ _ _ _ => .channelRange
  | .lookup _ _ _ _ => .channelRange
  | .store _ _ _ _ => .channelRange
  | .probe _ _ _ _ => .channelRange

/-- The assembler on one statement (R61). -/
def assemble (x : Source) : Except AsmError (List CmdWord) :=
  if x.wf then .ok (sourceWords x) else .error (rangeError x)

/-! ### Text (R61; log entry 18) -/

/-- White space within a line. -/
def isBlank (c : Char) : Bool := c == ' ' || c == '\t' || c == '\r'

/-- A piece of text without white space at its ends. -/
def trimBlanks (l : List Char) : List Char := ((l.dropWhile isBlank).reverse.dropWhile isBlank).reverse

/-- The pieces between separators. -/
def splitAtChar (sep : Char) : List Char → List (List Char)
  | [] => [[]]
  | c :: cs =>
    match splitAtChar sep cs with
    | [] => [[c]]
    | w :: ws => if c == sep then [] :: w :: ws else (c :: w) :: ws

/-- The value of a digit. -/
def digitValue (base : Nat) (c : Char) : Option Nat :=
  let v :=
    if '0' ≤ c ∧ c ≤ '9' then some (c.toNat - 48)
    else if 'a' ≤ c ∧ c ≤ 'f' then some (c.toNat - 87)
    else if 'A' ≤ c ∧ c ≤ 'F' then some (c.toNat - 55)
    else none
  v.filter (· < base)

/-- The number some digits stand for. -/
def digitsValue (base : Nat) : Nat → List Char → Option Nat
  | acc, [] => some acc
  | acc, c :: cs => (digitValue base c).bind fun d => digitsValue base (base * acc + d) cs

/-- Digits, at least one. -/
def someDigits (base : Nat) (l : List Char) : Option Nat :=
  if l.isEmpty then none else digitsValue base 0 l

/-- A numeral, decimal or with `0x` hexadecimal; a hexadecimal one may be grouped by `_` (R11, R51, R61). -/
def numeral (l : List Char) : Option Nat :=
  match trimBlanks l with
  | '0' :: 'x' :: ds => someDigits 16 (ds.filter (· != '_'))
  | ds => someDigits 10 ds

/-- A pixel may be written as a tuple (R61). -/
def withoutParens (l : List Char) : List Char :=
  match l with
  | '(' :: cs => if cs.getLast? = some ')' then cs.dropLast else l
  | _ => l

/-- The four channels of a pixel operand. -/
def pixelOperand (l : List Char) : Option (Nat × Nat × Nat × Nat) :=
  match (splitAtChar ',' (withoutParens l)).map numeral with
  | [some r, some g, some b, some a] => some (r, g, b, a)
  | _ => none

/-- A statement of a mnemonic and the rest of its line. -/
def statementOf (m rest : List Char) : Option Source :=
  if m = "NOP".toList ∧ rest = [] then some .nop
  else if m = "CLEAR".toList ∧ rest = [] then some .clear
  else if m = "DUMP".toList ∧ rest = [] then some .dump
  else if m = "INIT".toList ∧ rest = [] then some .init
  else if m = "READ".toList then (numeral rest).map .read
  else if m = ".word48".toList then (numeral rest).map .word48
  else if m = "HASH".toList then (pixelOperand rest).map fun q => .hash q.1 q.2.1 q.2.2.1 q.2.2.2
  else if m = "LOOKUP".toList then (pixelOperand rest).map fun q => .lookup q.1 q.2.1 q.2.2.1 q.2.2.2
  else if m = "STORE".toList then (pixelOperand rest).map fun q => .store q.1 q.2.1 q.2.2.1 q.2.2.2
  else if m = "PROBE".toList then (pixelOperand rest).map fun q => .probe q.1 q.2.1 q.2.2.1 q.2.2.2
  else none

/-- One line: a comment begins at `;`, and a line without a statement gives no words (R61). -/
def assembleLine (l : List Char) : Except AsmError (List CmdWord) :=
  let body := trimBlanks (l.takeWhile (· != ';'))
  if body.isEmpty then .ok []
  else
    match statementOf (body.takeWhile (!isBlank ·)) (trimBlanks (body.dropWhile (!isBlank ·))) with
    | none => .error .badSyntax
    | some x => assemble x

/-- Lines in order; the first refused line refuses the text. -/
def assembleLines : List (List Char) → Except AsmError (List CmdWord)
  | [] => .ok []
  | l :: ls =>
    match assembleLine l, assembleLines ls with
    | .error e, _ => .error e
    | .ok _, .error e => .error e
    | .ok ws, .ok vs => .ok (ws ++ vs)

/-- A text, line by line. -/
def assembleText (l : List Char) : Except AsmError (List CmdWord) := assembleLines (splitAtChar '\n' l)

end Sys2Proof.Machine
end

