-- ==== Sys2Proof/Machine/Client.lean ====
section
/-! DEFINITION. The two clients of the block, the encoder and the decoder: which commands each issues for
each pixel, in which order, and what it takes from the responses (45_client_protocol.md, R75 to R92).
Their other duties are outside the block (R6): a chunk carries the pixel it stands for, not its bits, and
the choice among Diff, Luma and Literal is an argument (log entry 15). -/

namespace Sys2Proof.Machine

/-! ### Commands and responses -/

/-- A command word a client issued and the response word it took. -/
structure Exchange where
  cmd : CmdWord
  rsp : RspWord
  deriving DecidableEq, Repr

/-- The response's fields as the client reads them (R56). -/
def Exchange.reply (x : Exchange) : Response := Response.unpack x.rsp

/-- A client issues a command to its instance and takes the response (R40, R75). -/
def ask (t : SlotArray) (i : Instr) : SlotArray × Exchange :=
  ((issue t (encode i)).1, ⟨encode i, (issue t (encode i)).2⟩)

/-- A client issues commands one after another. -/
def askAll (t : SlotArray) : List Instr → SlotArray × List Exchange
  | [] => (t, [])
  | i :: is => ((askAll (ask t i).1 is).1, (ask t i).2 :: (askAll (ask t i).1 is).2)

/-- How a client makes its instance fresh (R28, R76). -/
inductive Start where
  /-- By the hardware's reset (R104). -/
  | reset
  /-- By the command CLEAR (R71). -/
  | clear
  deriving DecidableEq, Repr

/-- Stream start: a fresh instance, and then, before the first pixel's command, the commands `idle`. R76
allows only HASH, LOOKUP, READ and NOP among them. -/
def freshen (start : Start) (idle : List Instr) (t : SlotArray) : SlotArray × List Exchange :=
  match start with
  | .reset => askAll clearedSlots idle
  | .clear => askAll t (.clear :: idle)

/-- What becomes of a stream (R100). -/
inductive StreamEnd (α : Type) where
  | finished (out : α)
  /-- An error response came: the partial output is discarded. -/
  | aborted
  deriving DecidableEq, Repr

/-- A client aborts its stream when any of its responses is an error response (R100). -/
def settle {α : Type} (xs : List Exchange) (out : α) : StreamEnd α :=
  if xs.any (fun x => x.reply.err) then .aborted else .finished out

/-! ### Images and chunks -/

/-- The channels of an image (R8). -/
inductive Channels where
  | rgb
  | rgba
  deriving DecidableEq, Repr

/-- The pixel operand a client passes: alpha is 255 for every pixel of a 3-channel image (R77). -/
def operandPixel : Channels → Pixel → Pixel
  | .rgb, p => { p with a := Config.opaqueAlpha }
  | .rgba, p => p

/-- A chunk, by what it stands for. -/
inductive Chunk where
  /-- Literal-RGB: alpha is inherited from the previous pixel (R84). -/
  | literalRgb (r g b : Byte)
  /-- Literal-RGBA (R84). -/
  | literalRgba (p : Pixel)
  /-- Diff, with the pixel the decoder reconstructs from it (R84). -/
  | diff (p : Pixel)
  /-- Luma, with the pixel the decoder reconstructs from it (R84). -/
  | luma (p : Pixel)
  /-- Index, with its 6-bit slot number (R81, R85). -/
  | index (s : SlotIdx)
  /-- Run, with its length (R80, R86). -/
  | run (n : Nat)
  deriving DecidableEq, Repr

/-- The encoder's choice on a miss, made outside the block (R6, R81). -/
inductive CodedKind where
  | diff
  | luma
  | literal
  deriving DecidableEq, Repr

/-- A Literal chunk: RGBA if the image has an alpha channel, RGB otherwise (R79; log entry 16). -/
def literalChunk : Channels → Pixel → Chunk
  | .rgb, p => .literalRgb p.r p.g p.b
  | .rgba, p => .literalRgba p

/-- The chunk for a pixel that missed (R81). -/
def codedChunk (ch : Channels) : CodedKind → Pixel → Chunk
  | .diff, p => .diff p
  | .luma, p => .luma p
  | .literal, p => literalChunk ch p

/-! ### The encoder -/

/-- Which of the conforming command sequences an encoder issues. DESIGN CHOICE: one form holds for a whole
stream; the spec does not say whether forms may be mixed from pixel to pixel (log entries 25 and 26). -/
structure EncoderForm where
  /-- One STORE in place of LOOKUP and STORE (R82), at every pixel of R81 or at none (log entry 25). -/
  single : Bool
  /-- Also the stores of run pixels, which change nothing (R89), all of them or none (log entry 26); where
  they stand is log entry 24. -/
  storeRuns : Bool
  deriving DecidableEq, Repr

/-- What the encoder keeps between pixels: its previous pixel, none before the first, and the length of
the pending run (R79 to R81). -/
structure Encoder where
  prev : Option Pixel
  run : Nat
  deriving DecidableEq, Repr

/-- Before the first pixel. -/
def Encoder.init : Encoder := ⟨none, 0⟩

/-- What an encoder does, in order. -/
inductive Event where
  | command (x : Exchange)
  | chunk (c : Chunk)
  deriving DecidableEq, Repr

/-- The commands among what an encoder does. -/
def exchangesOf (l : List Event) : List Exchange :=
  l.filterMap fun
    | .command x => some x
    | .chunk _ => none

/-- The chunks among what an encoder does. -/
def chunksOf (l : List Event) : List Chunk :=
  l.filterMap fun
    | .command _ => none
    | .chunk c => some c

/-- What handling one pixel leaves. -/
structure EncoderTurn where
  state : Encoder
  slots : SlotArray
  events : List Event
  deriving DecidableEq, Repr

/-- The first pixel: a Literal chunk, then STORE; no LOOKUP (R79). -/
def encodeFirst (ch : Channels) (t : SlotArray) (p : Pixel) : EncoderTurn :=
  ⟨⟨some p, 0⟩, (ask t (.store p)).1, [.chunk (literalChunk ch p), .command (ask t (.store p)).2]⟩

/-- A pixel equal to the previous one: the run grows, and is flushed at its maximum and at the last pixel;
no cache command (R80), unless the encoder also issues the stores left out (R89). DESIGN CHOICE: such a
STORE comes before the Run chunk flushed at its pixel; R89 gives no order (log entry 24). -/
def encodeRepeat (f : EncoderForm) (t : SlotArray) (run : Nat) (last : Bool) (p : Pixel) : EncoderTurn :=
  let slots := if f.storeRuns then (ask t (.store p)).1 else t
  let stores := if f.storeRuns then [Event.command (ask t (.store p)).2] else []
  if run + 1 == Config.maxRun || last then ⟨⟨some p, 0⟩, slots, stores ++ [.chunk (.run (run + 1))]⟩
  else ⟨⟨some p, run + 1⟩, slots, stores⟩

/-- The pending run, flushed before another pixel (R81). -/
def flushRun (run : Nat) : List Event := if run = 0 then [] else [.chunk (.run run)]

/-- The Index check: on a hit an Index chunk with `rsp.slot`, on a miss the chunk chosen outside (R81). -/
def chunkFor (ch : Channels) (k : CodedKind) (p : Pixel) (x : Exchange) : Chunk :=
  if x.reply.hit then .index x.reply.slot else codedChunk ch k p

/-- A pixel other than the previous one: flush, LOOKUP, chunk, STORE (R81), or with one STORE that answers
the Index check as well (R82). -/
def encodeNew (f : EncoderForm) (ch : Channels) (k : CodedKind) (t : SlotArray) (run : Nat) (p : Pixel) :
    EncoderTurn :=
  if f.single then
    let x := ask t (.store p)
    ⟨⟨some p, 0⟩, x.1, flushRun run ++ [.command x.2, .chunk (chunkFor ch k p x.2)]⟩
  else
    let x := ask t (.lookup p)
    let y := ask x.1 (.store p)
    ⟨⟨some p, 0⟩, y.1, flushRun run ++ [.command x.2, .chunk (chunkFor ch k p x.2), .command y.2]⟩

/-- One pixel; `pick` chooses among Diff, Luma and Literal from the previous pixel and this one (R81). -/
def encodePixel (f : EncoderForm) (ch : Channels) (pick : Pixel → Pixel → CodedKind) (t : SlotArray)
    (e : Encoder) (last : Bool) (p : Pixel) : EncoderTurn :=
  match e.prev with
  | none => encodeFirst ch t p
  | some q => if p = q then encodeRepeat f t e.run last p else encodeNew f ch (pick q p) t e.run p

/-- What encoding pixels leaves: what was done, the slots at the end, and the slots after each pixel
(`C^E_i`, R87). -/
structure EncoderRun where
  events : List Event
  slots : SlotArray
  history : List SlotArray
  deriving DecidableEq, Repr

/-- The pixels in raster order, each handled wholly before the next (R78), all in one form (DESIGN CHOICE,
log entries 25 and 26). -/
def encodeFrom (f : EncoderForm) (ch : Channels) (pick : Pixel → Pixel → CodedKind) :
    SlotArray → Encoder → List Pixel → EncoderRun
  | t, _, [] => ⟨[], t, []⟩
  | t, e, p :: ps =>
    let turn := encodePixel f ch pick t e ps.isEmpty p
    let rest := encodeFrom f ch pick turn.slots turn.state ps
    ⟨turn.events ++ rest.events, rest.slots, turn.slots :: rest.history⟩

/-- A whole stream on an instance that holds `t` before it: the fresh start (R76), then the image's pixels
as operands (R77). -/
def encodeStream (start : Start) (idle : List Instr) (f : EncoderForm) (ch : Channels)
    (pick : Pixel → Pixel → CodedKind) (t : SlotArray) (ps : List Pixel) : EncoderRun :=
  let fresh := freshen start idle t
  let r := encodeFrom f ch pick fresh.1 Encoder.init (ps.map (operandPixel ch))
  { r with events := fresh.2.map Event.command ++ r.events }

/-! ### The decoder -/

/-- What handling chunks leaves: the previous pixel, the slots, the pixels put out, the commands issued,
and the slots after each pixel put out (`C^D_i`, R88). -/
structure DecoderRun where
  prev : Pixel
  slots : SlotArray
  out : List Pixel
  exchanges : List Exchange
  history : List SlotArray
  deriving DecidableEq, Repr

/-- A formed pixel is stored and put out (R84). -/
def decodeFormed (t : SlotArray) (p : Pixel) : DecoderRun :=
  ⟨p, (ask t (.store p)).1, [p], [(ask t (.store p)).2], [(ask t (.store p)).1]⟩

/-- An Index chunk: READ, and the pixel of the response; no STORE (R85). -/
def decodeIndex (t : SlotArray) (s : SlotIdx) : DecoderRun :=
  let x := ask t (.read s)
  ⟨x.2.reply.pix, x.1, [x.2.reply.pix], [x.2], [x.1]⟩

/-- A Run chunk: so many copies of the previous pixel, and no cache command (R86). -/
def decodeRun (t : SlotArray) (prev : Pixel) (n : Nat) : DecoderRun :=
  ⟨prev, t, List.replicate n prev, [], List.replicate n t⟩

/-- An Index chunk with the store left out by R85 issued after all (R89, R91). -/
def decodeIndexStoring (t : SlotArray) (s : SlotIdx) : DecoderRun :=
  let x := ask t (.read s)
  let y := ask x.1 (.store x.2.reply.pix)
  ⟨x.2.reply.pix, y.1, [x.2.reply.pix], [x.2, y.2], [y.1]⟩

/-- A Run chunk with the stores left out by R86 issued after all, one a pixel (R89). -/
def decodeRunStoring (t : SlotArray) (prev : Pixel) : Nat → DecoderRun
  | 0 => ⟨prev, t, [], [], []⟩
  | n + 1 =>
    let x := ask t (.store prev)
    let rest := decodeRunStoring x.1 prev n
    ⟨prev, rest.slots, prev :: rest.out, x.2 :: rest.exchanges, x.1 :: rest.history⟩

/-- One chunk; `storing` asks for the stores that R85 and R86 leave out (R89), for a Run chunk all of them
(DESIGN CHOICE, log entry 26). -/
def decodeChunk (storing : Bool) (t : SlotArray) (prev : Pixel) : Chunk → DecoderRun
  | .literalRgb r g b => decodeFormed t ⟨r, g, b, prev.a⟩
  | .literalRgba p => decodeFormed t p
  | .diff p => decodeFormed t p
  | .luma p => decodeFormed t p
  | .index s => if storing then decodeIndexStoring t s else decodeIndex t s
  | .run n => if storing then decodeRunStoring t prev n else decodeRun t prev n

/-- The chunks in order. DESIGN CHOICE: the stores left out are issued for every chunk or for none; R89 does
not say whether a client may issue some of them (log entry 26). -/
def decodeFrom (storing : Bool) : SlotArray → Pixel → List Chunk → DecoderRun
  | t, prev, [] => ⟨prev, t, [], [], []⟩
  | t, prev, c :: cs =>
    let turn := decodeChunk storing t prev c
    let rest := decodeFrom storing turn.slots turn.prev cs
    ⟨rest.prev, rest.slots, turn.out ++ rest.out, turn.exchanges ++ rest.exchanges,
      turn.history ++ rest.history⟩

/-- A whole stream on an instance that holds `t` before it. `init` is `PREV_INIT`, a parameter (D17). -/
def decodeStream (start : Start) (idle : List Instr) (storing : Bool) (init : Pixel) (t : SlotArray)
    (cs : List Chunk) : DecoderRun :=
  let fresh := freshen start idle t
  let r := decodeFrom storing fresh.1 init cs
  { r with exchanges := fresh.2 ++ r.exchanges }

/-- What the slots are after each pixel when every pixel is stored (R74, R87). -/
def storeHistory : SlotArray → List Pixel → List SlotArray
  | _, [] => []
  | t, p :: ps => writeSlot t (slotHash p) p :: storeHistory (writeSlot t (slotHash p) p) ps

end Sys2Proof.Machine
end

