-- ==== Sys2Proof/Machine/Instances.lean ====
section
/-! DEFINITION. Several instances side by side (R27, R75, R103): each has its own state, its own pins and its
own implementation. DESIGN CHOICE: R103 does not say whether the instances are built alike, so what each is
stands as an argument, `impl k` for instance `k` (log entry 19). -/

namespace Sys2Proof.Machine

/-- One instance alone, of the implementation `m`. -/
def coreWith (m : Config.Impl) : Host.Core where
  State := State
  Fault := Fault
  Refusal := Refusal
  step := stepWith m
  reset := State.resetWith m

/-- One rising edge of one of the instances. -/
def stepInstance (impl : Nat → Config.Impl) (ys : List State) (k : Nat) :
    Host.Outcome (List State) Fault Refusal :=
  match ys[k]? with
  | none => .next ys
  | some s =>
    match stepWith (impl k) s with
    | .next t => .next (ys.set k t)
    | .fault r => .fault r
    | .refused r => .refused r

/-- Edges of the instances in any order. -/
def runInstances (impl : Nat → Config.Impl) (ys : List State) :
    List Nat → Host.Outcome (List State) Fault Refusal
  | [] => .next ys
  | k :: ks =>
    match stepInstance impl ys k with
    | .next zs => runInstances impl zs ks
    | .fault r => .fault r
    | .refused r => .refused r

end Sys2Proof.Machine
end

