-- ==== Sys2Proof/Safety.lean ====
section
/-! DEFINITION. What claims are stated in: the invariants of a run, what the port shows, and what a
conforming client sends. -/

namespace Sys2Proof.Machine

/-- The slot invariant: every slot holds the sentinel or a pixel whose home it is (R19). -/
abbrev SlotsHome (t : SlotArray) : Prop :=
  ∀ k : SlotIdx, readSlot t k = Config.sentinel ∨ slotHash (readSlot t k) = k

/-- What is in flight between two edges: at most one command for each past edge, oldest first, and each
accepted less than `RSP_LATENCY` edges ago (R49). -/
abbrev PipelineOk (m : Config.Impl) (l : List Pending) : Prop :=
  l.Pairwise (fun p q => q.age < p.age) ∧ ∀ p ∈ l, 1 ≤ p.age ∧ p.age < m.rspLatency

/-- The invariant of a run. -/
abbrev State.Inv (m : Config.Impl) (s : State) : Prop := SlotsHome s.cache ∧ PipelineOk m s.inflight

/-- The responses of accepted commands that the client has not taken yet, in acceptance order (R49). -/
def State.due (s : State) : List RspWord :=
  (bif s.rspValid then [s.rsp] else []) ++ s.inflight.map Pending.rsp

/-- The response the client takes in the cycle before the coming edge, if one is valid (R47). -/
def State.taken (s : State) : List RspWord := bif s.outputs.rspValid then [s.outputs.rsp] else []

/-- What the port shows over some edges: the words accepted, the responses taken, the state at the end. -/
structure PortTrace where
  accepted : List CmdWord
  taken : List RspWord
  final : State
  deriving DecidableEq, Repr

/-- The port over `n` edges. It stops early only at a step that does not answer a next state. -/
def portTrace (m : Config.Impl) : Nat → State → PortTrace
  | 0, s => ⟨[], [], s⟩
  | n + 1, s =>
    match stepWith m s with
    | .next t =>
      ⟨s.acceptedWord.toList ++ (portTrace m n t).accepted, s.taken ++ (portTrace m n t).taken,
        (portTrace m n t).final⟩
    | .fault _ => ⟨[], [], s⟩
    | .refused _ => ⟨[], [], s⟩

/-- No reset at any of the next `n` edges. -/
abbrev State.NoReset (s : State) (n : Nat) : Prop := ∀ e ∈ s.input.take n, e.rst = false

/-- The commands that change no state: HASH, LOOKUP, READ and NOP (R41, R69, R76). -/
def isQuiet : Instr → Bool
  | .nop => true
  | .hash _ => true
  | .lookup _ => true
  | .read _ => true
  | .clear => false
  | .store _ => false
  | .reserved110 => false
  | .reserved111 => false

/-- The reserved class (R59). -/
def isReserved : Instr → Bool
  | .reserved110 => true
  | .reserved111 => true
  | .nop => false
  | .clear => false
  | .hash _ => false
  | .lookup _ => false
  | .store _ => false
  | .read _ => false

/-- The pixels that STOREs among some commands write, in order (R74). -/
def storedPixels (is : List Instr) : List Pixel :=
  is.filterMap fun
    | .store p => some p
    | .nop => none
    | .clear => none
    | .hash _ => none
    | .lookup _ => none
    | .read _ => none
    | .reserved110 => none
    | .reserved111 => none

/-- The last of some stored pixels whose home is slot `k`, the sentinel when there is none (R74). -/
def lastStored (ps : List Pixel) (k : SlotIdx) : Pixel :=
  ((ps.filter fun p => slotHash p == k).getLast?).getD Config.sentinel

/-- What a conforming client sends: no reserved opcode (R100), and zero in the reserved bits (R53). -/
def conformingWord (w : CmdWord) : Bool :=
  !isReserved (decode w) && (Command.unpack w).rsv == 0

/-- Two chunks ask the same of the cache: a pixel to store, whichever it is, the same slot, or a run of the
same length (R84 to R86). What a stored pixel's bits are is left to the chunk layouts (R6). -/
def sameCacheUse : Chunk → Chunk → Bool
  | .index s, .index s' => s == s'
  | .run n, .run n' => n == n'
  | .index _, _ => false
  | .run _, _ => false
  | _, .index _ => false
  | _, .run _ => false
  | _, _ => true

end Sys2Proof.Machine
end

