-- ==== Sys2Proof/Certificates/Slice0/Obligations.lean ====
section
/-! DEFINITION. The statements for the provers. Each docstring names the rule of spec/ it formalises. -/

open Sys2Proof Sys2Proof.Machine

/-! ### The hash -/

/-- R63: the slot hash is the exact weighted sum mod 64; the sum is at most 6630, which is attained and
fits in 13 bits. -/
def Obligations.HashIsWeightedSumMod64 : Prop :=
  (∀ p : Pixel, (slotHash p).toNat
    = (3 * p.r.toNat + 5 * p.g.toNat + 7 * p.b.toNat + 11 * p.a.toNat) % 64) ∧
  (∀ p : Pixel, 3 * p.r.toNat + 5 * p.g.toNat + 7 * p.b.toNat + 11 * p.a.toNat ≤ 6630) ∧
  hashSum ⟨255, 255, 255, 255⟩ = 6630 ∧ 6630 < 2 ^ 13

/-- R64: the hash is bits 5:0 of the exact sum, and of the same sum wrapped at any width of 6 bits or more;
at every smaller width it is wrong for some pixel. -/
def Obligations.HashSameAtEveryWidth : Prop :=
  (∀ p : Pixel, slotHash p = BitVec.ofNat 6 (hashSum p)) ∧
  (∀ (n : Nat) (p : Pixel), 6 ≤ n → (hashSumAtWidth n p).setWidth 6 = slotHash p) ∧
  (∀ n : Nat, n < 6 → ∃ p : Pixel, (hashSumAtWidth n p).setWidth 6 ≠ slotHash p)

/-- 40_query.md §5: the sentinel is at home in slot 0, the hash reads only bits 5:0 of each channel, and
with any three channels fixed the fourth's low 6 bits reach each slot exactly once. -/
def Obligations.HashLowBitsAndBijection : Prop :=
  slotHash Config.sentinel = 0 ∧
  (∀ p : Pixel, (slotHash p).toNat
    = (3 * (p.r.toNat % 64) + 5 * (p.g.toNat % 64) + 7 * (p.b.toNat % 64) + 11 * (p.a.toNat % 64)) % 64) ∧
  (∀ p : Pixel,
    Function.Bijective (fun k : SlotIdx => slotHash { p with r := k.setWidth 8 }) ∧
    Function.Bijective (fun k : SlotIdx => slotHash { p with g := k.setWidth 8 }) ∧
    Function.Bijective (fun k : SlotIdx => slotHash { p with b := k.setWidth 8 }) ∧
    Function.Bijective (fun k : SlotIdx => slotHash { p with a := k.setWidth 8 }))

/-- 40_query.md §5, item 3: every slot is the home of exactly 2^26 pixels. -/
def Obligations.EverySlotIsHomeOf2To26Pixels : Prop :=
  ∀ k : SlotIdx,
    (Finset.univ.filter fun q : Fin 256 × Fin 256 × Fin 256 × Fin 256 =>
      slotHash ⟨BitVec.ofNat 8 q.1, BitVec.ofNat 8 q.2.1, BitVec.ofNat 8 q.2.2.1, BitVec.ofNat 8 q.2.2.2⟩
        = k).card = 2 ^ 26

/-! ### Encodings -/

/-- R50, R51: a command word is its fields, as bits and as a number, both ways; and R51's two examples. -/
def Obligations.CommandWordIsItsFields : Prop :=
  (∀ f : Command, (Command.pack f).toNat
    = f.op.toNat * 2 ^ 45 + f.rsv.toNat * 2 ^ 38 + f.idx.toNat * 2 ^ 32 + f.pix.r.toNat * 2 ^ 24
      + f.pix.g.toNat * 2 ^ 16 + f.pix.b.toNat * 2 ^ 8 + f.pix.a.toNat) ∧
  (∀ f : Command, Command.unpack (Command.pack f) = f) ∧
  (∀ w : CmdWord, Command.pack (Command.unpack w) = w) ∧
  (∀ w : CmdWord, Command.unpack w =
    ⟨w.extractLsb' 45 3, w.extractLsb' 38 7, w.extractLsb' 32 6,
      ⟨w.extractLsb' 24 8, w.extractLsb' 16 8, w.extractLsb' 8 8, w.extractLsb' 0 8⟩⟩) ∧
  encode (.read 9) = 0xA00900000000 ∧ encode (.lookup ⟨10, 20, 30, 255⟩) = 0x60000A141EFF

/-- Every command, encoded, decodes to itself, with every operand at every value; a command holds the operands
it reads and no others (log entry 13). -/
def Obligations.DecodeOfEncodeIsTheCommand : Prop := ∀ i : Instr, decode (encode i) = i

/-- The other direction: encoding what a word decodes to gives the word back with zero in the reserved
field and in every field its command ignores (R53, R54, R61). -/
def Obligations.EncodeOfDecodeZeroesIgnoredFields : Prop :=
  ∀ w : CmdWord, Command.unpack (encode (decode w)) =
    { Command.unpack w with
      rsv := 0
      idx := if (Command.unpack w).op = 5 then (Command.unpack w).idx else 0
      pix := if (Command.unpack w).op = 2 ∨ (Command.unpack w).op = 3 ∨ (Command.unpack w).op = 4
        then (Command.unpack w).pix else ⟨0, 0, 0, 0⟩ }

/-- R52, R58: decoding looks at bits 47:45 only, and each of the eight values selects the table's command
with the operands R54 gives it; its word has the table's match under the table's mask. -/
def Obligations.OpcodeSelectsTheCommand : Prop :=
  ∀ w : CmdWord,
    (w.extractLsb' 45 3 = 0b000 → decode w = .nop) ∧
    (w.extractLsb' 45 3 = 0b001 → decode w = .clear) ∧
    (w.extractLsb' 45 3 = 0b010 → decode w = .hash (Pixel.ofWord (w.extractLsb' 0 32))) ∧
    (w.extractLsb' 45 3 = 0b011 → decode w = .lookup (Pixel.ofWord (w.extractLsb' 0 32))) ∧
    (w.extractLsb' 45 3 = 0b100 → decode w = .store (Pixel.ofWord (w.extractLsb' 0 32))) ∧
    (w.extractLsb' 45 3 = 0b101 → decode w = .read (w.extractLsb' 32 6)) ∧
    (w.extractLsb' 45 3 = 0b110 → decode w = .reserved110) ∧
    (w.extractLsb' 45 3 = 0b111 → decode w = .reserved111) ∧
    opcode (decode w) = w.extractLsb' 45 3 ∧
    w &&& 0xE00000000000 = BitVec.ofNat 48 ((opcode (decode w)).toNat * 2 ^ 45)

/-- R53, R54: the reserved field and the operand fields a command does not read have no effect, whatever
their value: the word decodes, and executes, as the one with any other value there; nonzero reserved bits
raise no error, and clients write 0 there. -/
def Obligations.IgnoredFieldsHaveNoEffect : Prop :=
  (∀ (f : Command) (v : BitVec 7) (t : SlotArray),
    decode (Command.pack { f with rsv := v }) = decode (Command.pack f) ∧
    issue t (Command.pack { f with rsv := v }) = issue t (Command.pack { f with rsv := 0 })) ∧
  (∀ (f : Command) (v : SlotIdx) (t : SlotArray), f.op ≠ 0b101 →
    decode (Command.pack { f with idx := v }) = decode (Command.pack f) ∧
    issue t (Command.pack { f with idx := v }) = issue t (Command.pack f)) ∧
  (∀ (f : Command) (v : Pixel) (t : SlotArray), f.op ≠ 0b010 → f.op ≠ 0b011 → f.op ≠ 0b100 →
    decode (Command.pack { f with pix := v }) = decode (Command.pack f) ∧
    issue t (Command.pack { f with pix := v }) = issue t (Command.pack f)) ∧
  (∀ (f : Command) (t : SlotArray), (transact t (decode (Command.pack f))).rsp.err = true →
    f.op = 0b110 ∨ f.op = 0b111) ∧
  (∀ i : Instr, (Command.unpack (encode i)).rsv = 0)

/-- Words written out from R50 and R52 (and R51, 95_test_vectors.md) decode to what they stand for. -/
def Obligations.SampleWordsDecode : Prop :=
  decodeTableWord 48 0x000000000000 = some .nop ∧
  decodeTableWord 48 0x200000000000 = some .clear ∧
  decodeTableWord 48 0x40000A141EFF = some (.hash ⟨10, 20, 30, 255⟩) ∧
  decodeTableWord 48 0x60000A141EFF = some (.lookup ⟨10, 20, 30, 255⟩) ∧
  decodeTableWord 48 0x80000A141EFF = some (.store ⟨10, 20, 30, 255⟩) ∧
  decodeTableWord 48 0xA00900000000 = some (.read 9) ∧
  decodeTableWord 48 0xC0000A141EFF = some .reserved110 ∧
  decodeTableWord 48 0xFFFFFFFFFFFF = some .reserved111

/-- 30_encoding.md §5: a response word is its fields, as a number and both ways. -/
def Obligations.ResponseWordIsItsFields : Prop :=
  (∀ x : Response, x.pack.toNat
    = x.err.toNat * 2 ^ 39 + x.hit.toNat * 2 ^ 38 + x.slot.toNat * 2 ^ 32 + x.pix.word.toNat) ∧
  (∀ x : Response, Response.unpack x.pack = x) ∧
  (∀ w : RspWord, (Response.unpack w).pack = w)

/-- R57: the fields a command's rule does not name are 0 in its response. -/
def Obligations.UnproducedFieldsAreZero : Prop :=
  ∀ (t : SlotArray) (p : Pixel) (k : SlotIdx),
    (transact t .nop).rsp = ⟨false, false, 0, ⟨0, 0, 0, 0⟩⟩ ∧
    (transact t .clear).rsp = ⟨false, false, 0, ⟨0, 0, 0, 0⟩⟩ ∧
    (transact t (.hash p)).rsp = ⟨false, false, slotHash p, ⟨0, 0, 0, 0⟩⟩ ∧
    (transact t (.lookup p)).rsp.err = false ∧
    (transact t (.store p)).rsp.err = false ∧
    (transact t (.read k)).rsp = ⟨false, false, k, readSlot t k⟩ ∧
    (transact t .reserved110).rsp = ⟨true, false, 0, ⟨0, 0, 0, 0⟩⟩ ∧
    (transact t .reserved111).rsp = ⟨true, false, 0, ⟨0, 0, 0, 0⟩⟩

/-! ### Each command: its result, all it changes, and that it completes -/

/-- R70: NOP, with every other bit of its word ignored, writes no state; its response is 0. -/
def Obligations.NopResult : Prop :=
  (∀ w : CmdWord, w.extractLsb' 45 3 = 0b000 → decode w = .nop) ∧
  (∀ s : State, exec .nop s = .next { s with inflight := s.inflight ++ [⟨0, 0⟩] }) ∧
  (∀ t : SlotArray, issue t 0x000000000000 = (t, 0x0000000000))

/-- R71: CLEAR makes every slot the sentinel in one step and writes nothing else; its response is 0; on a
clear array it changes nothing; R71's example. -/
def Obligations.ClearResult : Prop :=
  (∀ w : CmdWord, w.extractLsb' 45 3 = 0b001 → decode w = .clear) ∧
  (∀ s : State, ∃ t : SlotArray,
    exec .clear s = .next { s with cache := t, inflight := s.inflight ++ [⟨0, 0⟩] } ∧
    ∀ k, readSlot t k = Config.sentinel) ∧
  (∀ t : SlotArray, (∀ k, readSlot t k = Config.sentinel) → issue t 0x200000000000 = (t, 0)) ∧
  (∀ t : SlotArray,
    (runWords t [0x80000A141EFF, 0x200000000000, 0xA00900000000]).2.drop 1 = [0x0000000000, 0x0900000000])

/-- R65: HASH responds with the slot of its pixel and changes no state; its corner cases and example. -/
def Obligations.HashResult : Prop :=
  (∀ w : CmdWord, w.extractLsb' 45 3 = 0b010 → decode w = .hash (Pixel.ofWord (w.extractLsb' 0 32))) ∧
  (∀ (p : Pixel) (s : State), exec (.hash p) s = .next { s with
    inflight := s.inflight ++ [⟨Response.pack ⟨false, false, slotHash p, ⟨0, 0, 0, 0⟩⟩, 0⟩] }) ∧
  slotHash Config.sentinel = 0 ∧ slotHash ⟨255, 255, 255, 255⟩ = 38 ∧
  (∀ p q : Pixel, p.r.extractLsb' 0 6 = q.r.extractLsb' 0 6 → p.g.extractLsb' 0 6 = q.g.extractLsb' 0 6 →
    p.b.extractLsb' 0 6 = q.b.extractLsb' 0 6 → p.a.extractLsb' 0 6 = q.a.extractLsb' 0 6 →
    slotHash p = slotHash q) ∧
  (∀ t : SlotArray, issue t 0x40000A141EFF = (t, 0x0900000000))

/-- R66: LOOKUP responds with the slot of its pixel, whether that slot holds exactly it, and what it holds;
it writes no state; its corner cases and example. -/
def Obligations.LookupResult : Prop :=
  (∀ w : CmdWord, w.extractLsb' 45 3 = 0b011 → decode w = .lookup (Pixel.ofWord (w.extractLsb' 0 32))) ∧
  (∀ (p : Pixel) (s : State), exec (.lookup p) s = .next { s with
    inflight := s.inflight ++ [⟨Response.pack ⟨false, decide (readSlot s.cache (slotHash p) = p), slotHash p,
      readSlot s.cache (slotHash p)⟩, 0⟩] }) ∧
  issue clearedSlots 0x600000000000 = (clearedSlots, 0x4000000000) ∧
  (∀ p : Pixel, p ≠ Config.sentinel →
    (transact clearedSlots (.lookup p)).rsp = ⟨false, false, slotHash p, Config.sentinel⟩) ∧
  (∀ (t : SlotArray) (p q : Pixel), p ≠ q → slotHash p = slotHash q → readSlot t (slotHash q) = q →
    (transact t (.lookup p)).rsp = ⟨false, false, slotHash p, q⟩) ∧
  (∀ (t : SlotArray) (p : Pixel) (v : Byte), v ≠ p.a → readSlot t (slotHash p) = { p with a := v } →
    (transact t (.lookup p)).rsp.hit = false) ∧
  issue clearedSlots 0x60000A141EFF = (clearedSlots, 0x0900000000)

/-- R67: READ responds with its index and what that slot holds, unchecked; it writes no state; its corner
cases and example. -/
def Obligations.ReadResult : Prop :=
  (∀ w : CmdWord, w.extractLsb' 45 3 = 0b101 → decode w = .read (w.extractLsb' 32 6)) ∧
  (∀ (k : SlotIdx) (s : State), exec (.read k) s = .next { s with
    inflight := s.inflight ++ [⟨Response.pack ⟨false, false, k, readSlot s.cache k⟩, 0⟩] }) ∧
  (∀ k : SlotIdx, (transact clearedSlots (.read k)).rsp.pix = Config.sentinel) ∧
  (∀ t : SlotArray, (runWords t [0x80000A141EFF, 0xA00900000000]).2.drop 1 = [0x090A141EFF])

/-- R72: STORE writes its pixel into the pixel's slot and nothing else, and responds from the slot's old
contents; its corner cases and example. -/
def Obligations.StoreResult : Prop :=
  (∀ w : CmdWord, w.extractLsb' 45 3 = 0b100 → decode w = .store (Pixel.ofWord (w.extractLsb' 0 32))) ∧
  (∀ (p : Pixel) (s : State), ∃ t : SlotArray,
    exec (.store p) s = .next { s with
      cache := t
      inflight := s.inflight ++ [⟨Response.pack ⟨false, decide (readSlot s.cache (slotHash p) = p), slotHash p,
        readSlot s.cache (slotHash p)⟩, 0⟩] } ∧
    readSlot t (slotHash p) = p ∧ ∀ k, k ≠ slotHash p → readSlot t k = readSlot s.cache k) ∧
  (∀ (t : SlotArray) (p : Pixel), readSlot t (slotHash p) = p →
    transact t (.store p) = ⟨t, ⟨false, true, slotHash p, p⟩⟩) ∧
  (∀ (t : SlotArray) (p : Pixel), p ≠ Config.sentinel → slotHash p = 0 →
    (transact (transact t (.store p)).slots (.lookup Config.sentinel)).rsp.hit = false) ∧
  slotHash ⟨25, 0, 0, 255⟩ = 0 ∧
  (∀ t : SlotArray, readSlot (transact t (.store Config.sentinel)).slots 0 = Config.sentinel) ∧
  (issue clearedSlots 0x80000A141EFF).2 = 0x0900000000 ∧
  readSlot (issue clearedSlots 0x80000A141EFF).1 9 = ⟨10, 20, 30, 255⟩

/-- R93: a reserved opcode, whatever its other bits, changes no state and answers the error response;
no other command sets `err`. -/
def Obligations.ReservedOpcodeResult : Prop :=
  (∀ w : CmdWord, w.extractLsb' 45 3 = 0b110 → decode w = .reserved110) ∧
  (∀ w : CmdWord, w.extractLsb' 45 3 = 0b111 → decode w = .reserved111) ∧
  (∀ s : State, exec .reserved110 s = .next { s with inflight := s.inflight ++ [⟨0x8000000000, 0⟩] }) ∧
  (∀ s : State, exec .reserved111 s = .next { s with inflight := s.inflight ++ [⟨0x8000000000, 0⟩] }) ∧
  (∀ (t : SlotArray) (w : CmdWord), (issue t w).2.getLsbD 39 = true ↔
    w.extractLsb' 45 3 = 0b110 ∨ w.extractLsb' 45 3 = 0b111)

/-- R95: no command but the reserved opcodes reports an error, and no command at all stops the block. -/
def Obligations.NoOtherCommandFails : Prop :=
  (∀ (t : SlotArray) (i : Instr), (transact t i).rsp.err = isReserved i) ∧
  (∀ (i : Instr) (s : State), ∃ t, exec i s = .next t)

/-- R99: after an error response the next commands execute as if the erroring one had not been there. -/
def Obligations.ErrorLeavesNoTrace : Prop :=
  ∀ (t : SlotArray) (i : Instr) (is js : List Instr), isReserved i = true →
    (runInstrs t (is ++ i :: js)).1 = (runInstrs t (is ++ js)).1 ∧
    (runInstrs t (is ++ i :: js)).2.eraseIdx is.length = (runInstrs t (is ++ js)).2

/-- The frame of every command: the port's registers are left to the edge, exactly one response joins those
in flight, and every slot reads as before but the one STORE writes and all of CLEAR's (R17, R18). -/
def Obligations.FrameOfEveryCommand : Prop :=
  ∀ (i : Instr) (s t : State), exec i s = .next t →
    t.rsp = s.rsp ∧ t.rspValid = s.rspValid ∧ t.hold = s.hold ∧ t.input = s.input ∧ t.edges = s.edges ∧
    (∃ x, t.inflight = s.inflight ++ [⟨x, 0⟩]) ∧
    (∀ p, i = .store p → ∀ k, k ≠ slotOfPixel p → readSlot t.cache k = readSlot s.cache k) ∧
    (i ≠ .clear → (∀ p, i ≠ .store p) → ∀ k, readSlot t.cache k = readSlot s.cache k)

/-! ### Laws of the commands -/

/-- R41, R69: HASH, LOOKUP, READ and NOP change no state, and inserting one anywhere changes no other
command's response; a second STORE of a pixel leaves the same state and returns a hit and the pixel; a
second CLEAR leaves the same state. -/
def Obligations.QuietCommandsAndIdempotency : Prop :=
  (∀ (t : SlotArray) (i : Instr), isQuiet i = true → (transact t i).slots = t) ∧
  (∀ (t : SlotArray) (i : Instr) (is js : List Instr), isQuiet i = true →
    (runInstrs t (is ++ i :: js)).1 = (runInstrs t (is ++ js)).1 ∧
    (runInstrs t (is ++ i :: js)).2.eraseIdx is.length = (runInstrs t (is ++ js)).2) ∧
  (∀ (t : SlotArray) (p : Pixel),
    transact (transact t (.store p)).slots (.store p)
      = ⟨(transact t (.store p)).slots, ⟨false, true, slotHash p, p⟩⟩) ∧
  (∀ t : SlotArray, (transact (transact t .clear).slots .clear).slots = (transact t .clear).slots)

/-- R73: STORE responds as LOOKUP does and then writes, so one STORE may stand for LOOKUP and STORE. -/
def Obligations.StoreIsLookupThenWrite : Prop :=
  ∀ (t : SlotArray) (p : Pixel),
    (transact t (.store p)).rsp = (transact t (.lookup p)).rsp ∧
    (∀ k, readSlot (transact t (.store p)).slots k = if k = slotHash p then p else readSlot t k) ∧
    runInstrs t [.lookup p, .store p]
      = ((runInstrs t [.store p]).1, [(transact t (.store p)).rsp, (transact t (.store p)).rsp])

/-- R74: after a reset or CLEAR and any commands without CLEAR, each slot holds the last pixel stored whose
home it is, or the sentinel when there is none; what came before does not matter. -/
def Obligations.SlotsHoldTheLastStores : Prop :=
  (∀ (is : List Instr) (k : SlotIdx), (∀ i ∈ is, i ≠ .clear) →
    readSlot (runInstrs clearedSlots is).1 k = lastStored (storedPixels is) k) ∧
  (∀ (t : SlotArray) (before is : List Instr),
    (runInstrs t (before ++ .clear :: is)).1 = (runInstrs clearedSlots is).1) ∧
  (∀ (is : List Instr), (∀ i ∈ is, i ≠ .clear) → (runInstrs clearedSlots is).1
    = (storedPixels is).foldl (fun t p => writeSlot t (slotHash p) p) clearedSlots)

/-- R25: a LOOKUP of (0,0,0,0) hits exactly when slot 0 holds it, and a LOOKUP of any other pixel misses a
slot that holds the sentinel. -/
def Obligations.SentinelAliasesSlotZeroOnly : Prop :=
  slotHash Config.sentinel = 0 ∧
  (∀ t : SlotArray, (transact t (.lookup Config.sentinel)).rsp.hit = true ↔ readSlot t 0 = Config.sentinel) ∧
  (∀ (t : SlotArray) (p : Pixel), p ≠ Config.sentinel → readSlot t (slotHash p) = Config.sentinel →
    (transact t (.lookup p)).rsp.hit = false)

/-- R24: storing (0,0,0,0) where slot 0 is untouched leaves a block no later command tells apart from one
where it was not stored: there is no presence bit. -/
def Obligations.NoPresenceBit : Prop :=
  ∀ (t : SlotArray) (is : List Instr), readSlot t 0 = Config.sentinel →
    runInstrs (transact t (.store Config.sentinel)).slots is = runInstrs t is

/-- R83, R108: the next command sees a STORE's effect, with nothing between: LOOKUP of the pixel hits, so
an encoder that stores before it looks up always hits, and READ of its slot returns it. -/
def Obligations.NextCommandSeesTheStore : Prop :=
  ∀ (t : SlotArray) (p : Pixel),
    (transact (transact t (.store p)).slots (.lookup p)).rsp = ⟨false, true, slotHash p, p⟩ ∧
    (transact (transact t (.store p)).slots (.read (slotHash p))).rsp = ⟨false, false, slotHash p, p⟩

/-- R19: every slot holds the sentinel or a pixel whose home it is: reset and CLEAR establish it, STORE
keeps it, and no other command writes. -/
def Obligations.SlotInvariantOfTheCommands : Prop :=
  SlotsHome State.reset.cache ∧
  (∀ t : SlotArray, SlotsHome (transact t .clear).slots) ∧
  (∀ (t : SlotArray) (p : Pixel), SlotsHome t → SlotsHome (transact t (.store p)).slots) ∧
  (∀ (t : SlotArray) (i : Instr), i ≠ .clear → (∀ p, i ≠ .store p) → (transact t i).slots = t)

/-! ### Reset, edges and time -/

/-- R29 (with R31 and R105): reset leaves every slot the sentinel, `rsp` and `rsp_valid` 0 and nothing in
flight, and `cmd_ready` low for at most `CLEAR_CYCLES`, for every implementation; so the invariant of a run
holds at reset. -/
def Obligations.ResetState : Prop :=
  Config.sentinel = ⟨0, 0, 0, 0⟩ ∧ State.reset = State.resetWith Config.impl ∧
  ∀ m : Config.Impl,
    (∀ k, readSlot (State.resetWith m).cache k = Config.sentinel) ∧
    (State.resetWith m).rsp = 0 ∧ (State.resetWith m).rspValid = false ∧
    (State.resetWith m).inflight = [] ∧ (State.resetWith m).hold ≤ m.clearCycles ∧
    (State.resetWith m).Inv m

/-- R104 (and R30): an edge with `rst = 1` makes every slot the sentinel, discards what is in flight, makes
no response valid and accepts nothing; `cmd_ready`, `rsp_valid` and `rsp` are 0 meanwhile. -/
def Obligations.ResetEdgeEffect : Prop :=
  ∀ (m : Config.Impl) (s : State), s.pins.rst = true →
    s.acceptedWord = none ∧ s.outputs = ⟨false, false, 0⟩ ∧
    ∃ t, stepWith m s = .next t ∧ (∀ k, readSlot t.cache k = Config.sentinel) ∧ t.rsp = 0 ∧
      t.rspValid = false ∧ t.inflight = [] ∧ t.hold ≤ m.clearCycles ∧ t.input = s.input.tail

/-- R48: a command is accepted where `rst = 0`, `cmd_valid = 1` and `cmd_ready = 1`, and then it is the value
of `cmd` at that edge that executes; at other edges the value of `cmd` has no effect, and while
`cmd_ready = 0` nor has `cmd_valid`. -/
def Obligations.AcceptanceRule : Prop :=
  (∀ s : State, s.accepts = true ↔
    s.pins.rst = false ∧ s.pins.cmdValid = true ∧ s.outputs.cmdReady = true) ∧
  (∀ (m : Config.Impl) (s : State), s.accepts = true →
    stepWith m s = acceptEdge m (decode s.pins.cmd) s.takeInput) ∧
  (∀ (m : Config.Impl) (s : State) (e : PortIn) (rest : List PortIn) (c : CmdWord),
    s.input = e :: rest → s.accepts = false →
    stepWith m { s with input := { e with cmd := c } :: rest } = stepWith m s) ∧
  (∀ (m : Config.Impl) (s : State) (e : PortIn) (rest : List PortIn) (c : CmdWord) (v : Bool),
    s.input = e :: rest → s.outputs.cmdReady = false →
    stepWith m { s with input := { e with cmd := c, cmdValid := v } :: rest } = stepWith m s) ∧
  (∀ (m : Config.Impl) (s : State), s.accepts = false → s.pins.rst = false →
    ∃ t, stepWith m s = .next t ∧ t.cache = s.cache ∧
      t.inflight.map Pending.rsp <:+ s.inflight.map Pending.rsp)

/-- The model's choice: a command takes effect at its acceptance edge (log entry 2), and `withFetchWord` stands
for the client's delivery (log entry 9). A step at which a command word is offered and the block is ready is
`exec` of the decoded command at the state with the edge's signals taken, and then the end of the edge, whose
waits and idle response are the free values of log entries 4 to 6; `withFetchWord` makes such a state. -/
def Obligations.StepRunsTheDecodedCommand : Prop :=
  (∀ (s : State) (w : CmdWord) (rest : List PortIn), s.input = ⟨false, true, w⟩ :: rest → s.hold = 0 →
    step s = match exec (decode w) { s with input := rest } with
      | .next t => .next (finishEdge Config.impl (holdAfter Config.impl (decode w) s.edges) t)
      | .fault r => .fault r
      | .refused r => .refused r) ∧
  (∀ (s : State) (w : CmdWord),
    step (s.withFetchWord 48 w.toNat) = match exec (decode w) { s with hold := 0 } with
      | .next t => .next (finishEdge Config.impl (holdAfter Config.impl (decode w) s.edges) t)
      | .fault r => .fault r
      | .refused r => .refused r)

/-- R95, R98: every step answers a next state, from every state; nothing stops the block. -/
def Obligations.EveryStepAnswers : Prop := ∀ s : State, ∃ t, step s = .next t

/-- The slot invariant of R19 is kept by every step. -/
def Obligations.StepKeepsSlotsHome : Prop :=
  ∀ s t : State, SlotsHome s.cache → step s = .next t → SlotsHome t.cache

/-- The order and the ages of what is in flight are kept by every step, for every implementation, so that no
two responses are ever due at once (R47, R49). Ages are counted as in log entry 3. -/
def Obligations.StepKeepsPipelineOrder : Prop :=
  (∀ (m : Config.Impl) (s t : State),
    PipelineOk m s.inflight → stepWith m s = .next t → PipelineOk m t.inflight) ∧
  (∀ s t : State,
    PipelineOk Config.impl s.inflight → step s = .next t → PipelineOk Config.impl t.inflight)

/-- R49, with the cycles counted as the model chooses (log entry 3, DEDUCED: the first cycle is the one that
begins at the acceptance edge): a command accepted at an edge has its response on `rsp`, valid, exactly
`RSP_LATENCY` cycles later, computed from the slots all earlier commands left, if no reset comes between. The
pipeline invariant rules out states no run reaches. -/
def Obligations.ResponseAfterExactlyRspLatency : Prop :=
  ∀ (m : Config.Impl) (s : State), PipelineOk m s.inflight → s.accepts = true → s.NoReset m.rspLatency →
    (portTrace m m.rspLatency s).final.rspValid = true ∧
    (portTrace m m.rspLatency s).final.rsp = (issue s.cache s.pins.cmd).2

/-- R39 (and R49): over any edges without reset, for any implementation and any client, the slots are those
of the accepted commands folded in acceptance order, and the responses taken, with those still due, are
those due before followed by the fold's, one for each command, in order. -/
def Obligations.PortRefinesTheFold : Prop :=
  ∀ (m : Config.Impl) (n : Nat) (s : State), s.NoReset n →
    (portTrace m n s).final.cache = (runWords s.cache (portTrace m n s).accepted).1 ∧
    (portTrace m n s).taken ++ (portTrace m n s).final.due
      = s.due ++ (runWords s.cache (portTrace m n s).accepted).2

/-- R112: two implementations that accept the same commands from the same slots end with the same slots and
give the same responses, whatever their latencies, clear cycles and free values. -/
def Obligations.TimingNeverChangesResponses : Prop :=
  ∀ (m₁ m₂ : Config.Impl) (n₁ n₂ : Nat) (s₁ s₂ : State), s₁.NoReset n₁ → s₂.NoReset n₂ →
    s₁.cache = s₂.cache → s₁.due = s₂.due →
    (portTrace m₁ n₁ s₁).accepted = (portTrace m₂ n₂ s₂).accepted →
    (portTrace m₁ n₁ s₁).final.cache = (portTrace m₂ n₂ s₂).final.cache ∧
    (portTrace m₁ n₁ s₁).taken ++ (portTrace m₁ n₁ s₁).final.due
      = (portTrace m₂ n₂ s₂).taken ++ (portTrace m₂ n₂ s₂).final.due

/-- R105, R109: after an edge with reset, or one at which CLEAR is accepted, every slot is the sentinel and
`cmd_ready` is low for at most `CLEAR_CYCLES` edges; while it is held low nothing is accepted and no slot
changes, and it rises after exactly `hold` edges without reset. At any number of edges, ready or not, at which
no command is accepted and no reset comes no slot changes. So the first command accepted sees every slot as
the sentinel, however late it comes. -/
def Obligations.ReadyWithinClearCycles : Prop :=
  (∀ (m : Config.Impl) (s t : State),
    s.pins.rst = true ∨ (s.accepts = true ∧ decode s.pins.cmd = .clear) →
    stepWith m s = .next t →
    (∀ k, readSlot t.cache k = Config.sentinel) ∧ t.hold ≤ m.clearCycles) ∧
  (∀ (m : Config.Impl) (s : State), s.NoReset s.hold →
    (portTrace m s.hold s).accepted = [] ∧ (portTrace m s.hold s).final.hold = 0 ∧
    (portTrace m s.hold s).final.cache = s.cache) ∧
  (∀ (m : Config.Impl) (n : Nat) (s : State), s.NoReset n → (portTrace m n s).accepted = [] →
    (portTrace m n s).final.cache = s.cache) ∧
  (∀ (m : Config.Impl) (n : Nat) (s t : State),
    s.pins.rst = true ∨ (s.accepts = true ∧ decode s.pins.cmd = .clear) →
    stepWith m s = .next t → t.NoReset n → (portTrace m n t).accepted = [] →
    ∀ k, readSlot (portTrace m n t).final.cache k = Config.sentinel)

/-- R27, R103: edges of several instances in any order leave each instance where its own edges alone would;
commands to one never change another. Each instance has an implementation of its own, whichever it is; that
edges come one at a time, in any order, is the model's choice (log entry 19). -/
def Obligations.InstancesShareNothing : Prop :=
  ∀ (impl : Nat → Config.Impl) (ys zs : List State) (sched : List Nat) (k : Nat) (y : State),
    runInstances impl ys sched = .next zs → ys[k]? = some y →
    ∃ z, zs[k]? = some z ∧ Host.Core.run (coreWith (impl k)) (sched.count k) y = .next z

/-! ### The clients -/

/-- R87: the slots on the encoder's side depend only on the pixels: after each pixel they are as if every
pixel so far had been stored, whatever the form, the chunk choices and the fresh start. -/
def Obligations.EncoderSlotsDependOnlyOnPixels : Prop :=
  ∀ (start : Start) (idle : List Instr) (f : EncoderForm) (ch : Channels) (pick : Pixel → Pixel → CodedKind)
    (t : SlotArray) (ps : List Pixel), (∀ i ∈ idle, isQuiet i = true) →
    (encodeStream start idle f ch pick t ps).history
      = storeHistory clearedSlots (ps.map (operandPixel ch)) ∧
    ∀ k, readSlot (encodeStream start idle f ch pick t ps).slots k
      = lastStored (ps.map (operandPixel ch)) k

/-- With the chunks of the model's choice (log entry 15: a chunk carries its pixel, so the exact reconstruction
that R88 supposes follows; log entry 16: which Literal; log entry 23: runs): the decoder that replays the
encoder's chunks puts out the image's pixels, and its slots equal the encoder's after every pixel. D17's
condition on `PREV_INIT` is the premise on 3-channel images. -/
def Obligations.DecoderStaysInLockstep : Prop :=
  ∀ (start₁ start₂ : Start) (idle₁ idle₂ : List Instr) (f : EncoderForm) (ch : Channels)
    (pick : Pixel → Pixel → CodedKind) (init : Pixel) (t u : SlotArray) (ps : List Pixel),
    (∀ i ∈ idle₁, isQuiet i = true) → (∀ i ∈ idle₂, isQuiet i = true) →
    (ch = .rgb → init.a = 255) →
    (decodeStream start₂ idle₂ false init u
      (chunksOf (encodeStream start₁ idle₁ f ch pick t ps).events)).out = ps.map (operandPixel ch) ∧
    (decodeStream start₂ idle₂ false init u
      (chunksOf (encodeStream start₁ idle₁ f ch pick t ps).events)).history
      = (encodeStream start₁ idle₁ f ch pick t ps).history

/-- R88 with its own premise: whatever pixels the decoder forms from Literal, Diff and Luma chunks, if it
replays a stream that asks of the cache what the encoder's does and reconstructs every pixel exactly, its
slots equal the encoder's after every pixel, for every `PREV_INIT`. So nothing rests on what a stored pixel's
chunk carries (log entries 15 and 16); that a run has its length in pixels is log entry 23. -/
def Obligations.ExactReconstructionGivesLockstep : Prop :=
  ∀ (start₁ start₂ : Start) (idle₁ idle₂ : List Instr) (f : EncoderForm) (ch : Channels)
    (pick : Pixel → Pixel → CodedKind) (init : Pixel) (t u : SlotArray) (ps : List Pixel) (cs : List Chunk),
    (∀ i ∈ idle₁, isQuiet i = true) → (∀ i ∈ idle₂, isQuiet i = true) →
    List.Forall₂ (fun c d => sameCacheUse c d = true)
      (chunksOf (encodeStream start₁ idle₁ f ch pick t ps).events) cs →
    (decodeStream start₂ idle₂ false init u cs).out = ps.map (operandPixel ch) →
    (decodeStream start₂ idle₂ false init u cs).history
      = (encodeStream start₁ idle₁ f ch pick t ps).history

/-- R82: the encoder that issues one STORE in place of LOOKUP and STORE emits the same chunks, and its slots
are the same after every pixel. -/
def Obligations.SingleStoreEncoderIsTheSame : Prop :=
  ∀ (start : Start) (idle : List Instr) (storeRuns : Bool) (ch : Channels)
    (pick : Pixel → Pixel → CodedKind) (t : SlotArray) (ps : List Pixel),
    chunksOf (encodeStream start idle ⟨true, storeRuns⟩ ch pick t ps).events
      = chunksOf (encodeStream start idle ⟨false, storeRuns⟩ ch pick t ps).events ∧
    (encodeStream start idle ⟨true, storeRuns⟩ ch pick t ps).history
      = (encodeStream start idle ⟨false, storeRuns⟩ ch pick t ps).history

/-- R89: the stores that R80, R85 and R86 leave out change nothing for streams the encoder produced: with
them the encoder emits the same chunks, the decoder the same pixels, and the slots are the same after every
pixel. The decoder's part uses the exact reconstruction that the model's chunks give (log entry 15, with 16
and 23); where an encoder's left-out STORE stands (log entry 24) does not matter to it. -/
def Obligations.LeftOutStoresChangeNothing : Prop :=
  ∀ (start₁ start₂ : Start) (idle₁ idle₂ : List Instr) (single : Bool) (ch : Channels)
    (pick : Pixel → Pixel → CodedKind) (init : Pixel) (t u : SlotArray) (ps : List Pixel),
    (∀ i ∈ idle₁, isQuiet i = true) → (∀ i ∈ idle₂, isQuiet i = true) →
    (ch = .rgb → init.a = 255) →
    chunksOf (encodeStream start₁ idle₁ ⟨single, true⟩ ch pick t ps).events
      = chunksOf (encodeStream start₁ idle₁ ⟨single, false⟩ ch pick t ps).events ∧
    (encodeStream start₁ idle₁ ⟨single, true⟩ ch pick t ps).history
      = (encodeStream start₁ idle₁ ⟨single, false⟩ ch pick t ps).history ∧
    (decodeStream start₂ idle₂ true init u
      (chunksOf (encodeStream start₁ idle₁ ⟨single, false⟩ ch pick t ps).events)).out
      = (decodeStream start₂ idle₂ false init u
      (chunksOf (encodeStream start₁ idle₁ ⟨single, false⟩ ch pick t ps).events)).out ∧
    (decodeStream start₂ idle₂ true init u
      (chunksOf (encodeStream start₁ idle₁ ⟨single, false⟩ ch pick t ps).events)).history
      = (decodeStream start₂ idle₂ false init u
      (chunksOf (encodeStream start₁ idle₁ ⟨single, false⟩ ch pick t ps).events)).history

/-- R90 (and R79): a (0,0,0,0) that differs from the pixel before it, while slot 0 holds (0,0,0,0), becomes an
Index chunk of slot 0, and the decoder reads it back there; as the first pixel it is a Literal all the same. -/
def Obligations.SentinelHitIsReproduced : Prop :=
  (∀ (f : EncoderForm) (ch : Channels) (pick : Pixel → Pixel → CodedKind) (t : SlotArray) (q : Pixel)
    (run : Nat) (last : Bool), q ≠ Config.sentinel → readSlot t 0 = Config.sentinel →
    (chunksOf (encodePixel f ch pick t ⟨some q, run⟩ last Config.sentinel).events).getLast? = some (.index 0) ∧
    (decodeIndex t 0).out = [Config.sentinel]) ∧
  (∀ (start : Start) (f : EncoderForm) (pick : Pixel → Pixel → CodedKind) (t : SlotArray),
    chunksOf (encodeStream start [] f .rgba pick t [Config.sentinel]).events = [.literalRgba Config.sentinel])

/-- R91: an Index chunk that names a slot whose content has another home names a slot other than 0 that
holds the sentinel; the decoder puts out (0,0,0,0), stores nothing and reports nothing. A decoder that stored
would write slot 0, and its later output can differ. -/
def Obligations.OffHomeIndexReadsTheSentinel : Prop :=
  (∀ (t : SlotArray) (k : SlotIdx), SlotsHome t → slotHash (readSlot t k) ≠ k →
    k ≠ 0 ∧ readSlot t k = Config.sentinel ∧
    (decodeIndex t k).out = [Config.sentinel] ∧ (decodeIndex t k).prev = Config.sentinel ∧
    (decodeIndex t k).slots = t ∧ (decodeIndex t k).exchanges.map Exchange.cmd = [encode (.read k)] ∧
    (decodeIndexStoring t k).slots = writeSlot t 0 Config.sentinel) ∧
  ∃ (t : SlotArray) (k : SlotIdx) (p : Pixel), SlotsHome t ∧ slotHash (readSlot t k) ≠ k ∧
    (decodeFrom true t p [.index k, .index 0]).out ≠ (decodeFrom false t p [.index k, .index 0]).out

/-- R92: the encoder issues 1 command for the first pixel, none for a run pixel, 2 for any other (1 in the
single-command form); the decoder at most 1 a pixel; so at most 2N and N for N pixels, besides one CLEAR. -/
def Obligations.CommandCounts : Prop :=
  (∀ (single : Bool) (ch : Channels) (pick : Pixel → Pixel → CodedKind) (t : SlotArray) (e : Encoder)
    (last : Bool) (p : Pixel),
    (exchangesOf (encodePixel ⟨single, false⟩ ch pick t e last p).events).length
      = if e.prev = none then 1 else if e.prev = some p then 0 else if single then 1 else 2) ∧
  (∀ (single : Bool) (ch : Channels) (pick : Pixel → Pixel → CodedKind) (t : SlotArray) (ps : List Pixel),
    (exchangesOf (encodeStream .clear [] ⟨single, false⟩ ch pick t ps).events).length
      ≤ (if single then ps.length else 2 * ps.length) + 1) ∧
  (∀ (init : Pixel) (t : SlotArray) (cs : List Chunk),
    (decodeStream .clear [] false init t cs).exchanges.length
      ≤ (decodeStream .clear [] false init t cs).out.length + 1)

/-- R100 (and R53): every word the clients send conforms, no response to them is an error, so no stream is
aborted; and any stream with an error response is. -/
def Obligations.ConformingClientsNeverAbort : Prop :=
  (∀ (start : Start) (idle : List Instr) (f : EncoderForm) (ch : Channels)
    (pick : Pixel → Pixel → CodedKind) (t : SlotArray) (ps : List Pixel), (∀ i ∈ idle, isQuiet i = true) →
    (∀ x ∈ exchangesOf (encodeStream start idle f ch pick t ps).events, conformingWord x.cmd = true) ∧
    settle (exchangesOf (encodeStream start idle f ch pick t ps).events) ps = .finished ps) ∧
  (∀ (start : Start) (idle : List Instr) (storing : Bool) (init : Pixel) (t : SlotArray) (cs : List Chunk),
    (∀ i ∈ idle, isQuiet i = true) →
    (∀ x ∈ (decodeStream start idle storing init t cs).exchanges, conformingWord x.cmd = true) ∧
    settle (decodeStream start idle storing init t cs).exchanges cs = .finished cs) ∧
  (∀ (xs : List Exchange) (x : Exchange) (ps : List Pixel), x ∈ xs → x.reply.err = true →
    settle xs ps = .aborted)

/-- R106: a stream begun with CLEAR is the stream on a reset instance, whatever the instance held; without a
fresh start an encoder on an instance that holds an old pixel can emit chunks a fresh decoder reads wrongly. -/
def Obligations.FreshStartIsNeeded : Prop :=
  (∀ (idle : List Instr) (f : EncoderForm) (ch : Channels) (pick : Pixel → Pixel → CodedKind)
    (t u : SlotArray) (ps : List Pixel),
    chunksOf (encodeStream .clear idle f ch pick t ps).events
      = chunksOf (encodeStream .reset idle f ch pick u ps).events ∧
    (encodeStream .clear idle f ch pick t ps).history = (encodeStream .reset idle f ch pick u ps).history) ∧
  (∀ (f : EncoderForm) (pick : Pixel → Pixel → CodedKind) (init : Pixel), ∃ (t : SlotArray) (ps : List Pixel),
    (decodeFrom false clearedSlots init
      (chunksOf (encodeFrom f .rgba pick t Encoder.init ps).events)).out ≠ ps)

/-! ### The assembler -/

/-- R61: an assembler refuses a channel outside 0..255 and an index outside 0..63, and places the operands of
every other statement by R50 with zero in every ignored field; raw words stand as they are. -/
def Obligations.AssemblerPlacesOrRefuses : Prop :=
  (∀ r g b a : Nat, 255 < r ∨ 255 < g ∨ 255 < b ∨ 255 < a →
    assemble (.hash r g b a) = .error .channelRange ∧ assemble (.lookup r g b a) = .error .channelRange ∧
    assemble (.store r g b a) = .error .channelRange ∧ assemble (.probe r g b a) = .error .channelRange) ∧
  (∀ idx : Nat, 63 < idx → assemble (.read idx) = .error .indexRange) ∧
  (∀ r g b a : Nat, r ≤ 255 → g ≤ 255 → b ≤ 255 → a ≤ 255 → ∃ w₁ w₂ w₃ : CmdWord,
    assemble (.hash r g b a) = .ok [w₁] ∧ assemble (.lookup r g b a) = .ok [w₂] ∧
    assemble (.store r g b a) = .ok [w₃] ∧
    w₁.toNat = 2 * 2 ^ 45 + r * 2 ^ 24 + g * 2 ^ 16 + b * 2 ^ 8 + a ∧
    w₂.toNat = 3 * 2 ^ 45 + r * 2 ^ 24 + g * 2 ^ 16 + b * 2 ^ 8 + a ∧
    w₃.toNat = 4 * 2 ^ 45 + r * 2 ^ 24 + g * 2 ^ 16 + b * 2 ^ 8 + a) ∧
  (∀ idx : Nat, idx ≤ 63 → ∃ w : CmdWord,
    assemble (.read idx) = .ok [w] ∧ w.toNat = 5 * 2 ^ 45 + idx * 2 ^ 32) ∧
  (∀ w : Nat, w < 2 ^ 48 → assemble (.word48 w) = .ok [BitVec.ofNat 48 w]) ∧
  assemble .nop = .ok [0] ∧ assemble .clear = .ok [0x200000000000]

/-- R62: INIT is CLEAR, PROBE is LOOKUP, and DUMP is READ 0 to READ 63; DUMP changes nothing, its responses
are the slots in order, and so two instances with equal DUMPs hold equal slots. -/
def Obligations.DumpReadsTheWholeState : Prop :=
  assemble .init = assemble .clear ∧
  (∀ r g b a : Nat, assemble (.probe r g b a) = assemble (.lookup r g b a)) ∧
  assemble .dump = .ok (dumpInstrs.map encode) ∧
  (∀ k : SlotIdx, dumpInstrs[k.toNat]? = some (.read k)) ∧ dumpInstrs.length = 64 ∧
  (∀ t : SlotArray, (runInstrs t dumpInstrs).1 = t ∧
    ∀ k : SlotIdx, (runInstrs t dumpInstrs).2[k.toNat]? = some ⟨false, false, k, readSlot t k⟩) ∧
  (∀ t u : SlotArray, (runInstrs t dumpInstrs).2 = (runInstrs u dumpInstrs).2 ↔ t = u)
end

