-- ==== Sys2Proof/Laws/Codec.lean ====
section
/-! SUPPORT. Reading one field of a packed word. -/

namespace Sys2Proof

/-- R13, R34: unpacking a packed pixel gives it back. -/
@[simp] theorem Pixel.ofWord_word (p : Pixel) : Pixel.ofWord p.word = p := by
  obtain ⟨r, g, b, a⟩ := p
  simp only [Pixel.word, Pixel.ofWord, Pixel.mk.injEq]
  refine ⟨?_, ?_, ?_, BitVec.extractLsb'_append_eq_right⟩
  · rw [BitVec.extractLsb'_append_eq_of_le (by omega), BitVec.extractLsb'_append_eq_of_le (by omega),
      BitVec.extractLsb'_append_eq_of_le (by omega), BitVec.extractLsb'_eq_self]
  · rw [BitVec.extractLsb'_append_eq_of_le (by omega), BitVec.extractLsb'_append_eq_of_le (by omega),
      BitVec.extractLsb'_append_eq_of_add_le (by omega), BitVec.extractLsb'_eq_self]
  · rw [BitVec.extractLsb'_append_eq_of_le (by omega), BitVec.extractLsb'_append_eq_of_add_le (by omega),
      BitVec.extractLsb'_eq_self]

/-- R13, R34: packing an unpacked word gives it back. -/
@[simp] theorem Pixel.word_ofWord (w : PixelWord) : (Pixel.ofWord w).word = w := by
  simp only [Pixel.word, Pixel.ofWord]
  rw [BitVec.extractLsb'_append_extractLsb'_eq_extractLsb' (by omega),
    BitVec.extractLsb'_append_extractLsb'_eq_extractLsb' (by omega),
    BitVec.extractLsb'_append_extractLsb'_eq_extractLsb' (by omega)]
  exact BitVec.extractLsb'_eq_self

/-- The pixel field of a command word is its low half, packed (R50). -/
theorem Command.pack_low (f : Command) : (Command.pack f).extractLsb' 0 32 = f.pix.word :=
  BitVec.extractLsb'_append_eq_right

/-- The pixel field of a response word is its low half, packed (R56). -/
theorem Response.pack_low (x : Response) : x.pack.extractLsb' 0 32 = x.pix.word :=
  BitVec.extractLsb'_append_eq_right

/-- R57: the response with no field set is the word 0. -/
@[simp] theorem Response.pack_zero : Response.zero.pack = 0 := by decide

/-- R93: the error response as a word. -/
@[simp] theorem Response.pack_err : ({ Response.zero with err := true } : Response).pack = 0x8000000000 := by
  decide

@[simp] theorem opcode_nop : opcode .nop = 0 := rfl
@[simp] theorem opcode_clear : opcode .clear = 1 := rfl
@[simp] theorem opcode_hash (p : Pixel) : opcode (.hash p) = 2 := rfl
@[simp] theorem opcode_lookup (p : Pixel) : opcode (.lookup p) = 3 := rfl
@[simp] theorem opcode_store (p : Pixel) : opcode (.store p) = 4 := rfl
@[simp] theorem opcode_read (k : SlotIdx) : opcode (.read k) = 5 := rfl
@[simp] theorem opcode_reserved110 : opcode .reserved110 = 6 := rfl
@[simp] theorem opcode_reserved111 : opcode .reserved111 = 7 := rfl

end Sys2Proof
end

