-- ==== Sys2Proof/Laws/State.lean ====
section
/-! SUPPORT. What each update of the state does to each field, and what the pins read as. -/

namespace Sys2Proof.Machine

variable (s : State) (x : Tx) (m : Config.Impl) (h : Nat) (w : CmdWord)

@[simp] theorem State.commit_cache : (s.commit x).cache = x.slots := rfl
@[simp] theorem State.commit_rsp : (s.commit x).rsp = s.rsp := rfl
@[simp] theorem State.commit_rspValid : (s.commit x).rspValid = s.rspValid := rfl
@[simp] theorem State.commit_inflight :
    (s.commit x).inflight = s.inflight ++ [⟨x.rsp.pack, 0⟩] := rfl
@[simp] theorem State.commit_hold : (s.commit x).hold = s.hold := rfl
@[simp] theorem State.commit_input : (s.commit x).input = s.input := rfl
@[simp] theorem State.commit_edges : (s.commit x).edges = s.edges := rfl

@[simp] theorem State.takeInput_cache : s.takeInput.cache = s.cache := rfl
@[simp] theorem State.takeInput_rsp : s.takeInput.rsp = s.rsp := rfl
@[simp] theorem State.takeInput_rspValid : s.takeInput.rspValid = s.rspValid := rfl
@[simp] theorem State.takeInput_inflight : s.takeInput.inflight = s.inflight := rfl
@[simp] theorem State.takeInput_hold : s.takeInput.hold = s.hold := rfl
@[simp] theorem State.takeInput_input : s.takeInput.input = s.input.tail := rfl
@[simp] theorem State.takeInput_edges : s.takeInput.edges = s.edges := rfl

@[simp] theorem resetEdge_cache : (resetEdge m s).cache = clearedSlots := rfl
@[simp] theorem resetEdge_rsp : (resetEdge m s).rsp = 0 := rfl
@[simp] theorem resetEdge_rspValid : (resetEdge m s).rspValid = false := rfl
@[simp] theorem resetEdge_inflight : (resetEdge m s).inflight = [] := rfl
@[simp] theorem resetEdge_hold :
    (resetEdge m s).hold = min (m.notReady s.edges) m.clearCycles := rfl
@[simp] theorem resetEdge_input : (resetEdge m s).input = s.input := rfl
@[simp] theorem resetEdge_edges : (resetEdge m s).edges = s.edges + 1 := rfl

@[simp] theorem finishEdge_cache : (finishEdge m h s).cache = s.cache := rfl
@[simp] theorem finishEdge_rsp :
    (finishEdge m h s).rsp = (popDue m (aged s.inflight)).1.getD (m.idleRsp s.edges) := rfl
@[simp] theorem finishEdge_rspValid :
    (finishEdge m h s).rspValid = (popDue m (aged s.inflight)).1.isSome := rfl
@[simp] theorem finishEdge_inflight :
    (finishEdge m h s).inflight = (popDue m (aged s.inflight)).2 := rfl
@[simp] theorem finishEdge_hold : (finishEdge m h s).hold = h := rfl
@[simp] theorem finishEdge_input : (finishEdge m h s).input = s.input := rfl
@[simp] theorem finishEdge_edges : (finishEdge m h s).edges = s.edges + 1 := rfl

@[simp] theorem State.offering_cache : (s.offering w).cache = s.cache := rfl
@[simp] theorem State.offering_rsp : (s.offering w).rsp = s.rsp := rfl
@[simp] theorem State.offering_rspValid : (s.offering w).rspValid = s.rspValid := rfl
@[simp] theorem State.offering_inflight : (s.offering w).inflight = s.inflight := rfl
@[simp] theorem State.offering_hold : (s.offering w).hold = 0 := rfl
@[simp] theorem State.offering_input : (s.offering w).input = offer w :: s.input := rfl
@[simp] theorem State.offering_edges : (s.offering w).edges = s.edges := rfl
@[simp] theorem State.offering_pins : (s.offering w).pins = offer w := rfl
@[simp] theorem State.offering_accepts : (s.offering w).accepts = true := rfl

@[simp] theorem State.resetWith_cache : (State.resetWith m).cache = clearedSlots := rfl
@[simp] theorem State.resetWith_rsp : (State.resetWith m).rsp = 0 := rfl
@[simp] theorem State.resetWith_rspValid : (State.resetWith m).rspValid = false := rfl
@[simp] theorem State.resetWith_inflight : (State.resetWith m).inflight = [] := rfl
@[simp] theorem State.resetWith_input : (State.resetWith m).input = [] := rfl

/-- An edge at which a command is accepted is an edge without reset (R48). -/
theorem State.accepts_not_rst {s : State} (h : s.accepts = true) : s.pins.rst = false := by
  simp only [State.accepts, Bool.and_eq_true, Bool.not_eq_true'] at h
  exact h.1.1

end Sys2Proof.Machine
end

