-- ==== Sys2Proof/Laws/Ops.lean ====
section
/-! SUPPORT. The laws of the slots: read after write, and what a write leaves alone (R38). -/

namespace Sys2Proof.Machine

/-- A written slot holds what was written. -/
@[simp] theorem readSlot_writeSlot_same (t : SlotArray) (k : SlotIdx) (p : Pixel) :
    readSlot (writeSlot t k p) k = p := by
  simp [readSlot, writeSlot, Vector.get_eq_getElem]

/-- A write leaves every other slot alone. -/
theorem readSlot_writeSlot_ne (t : SlotArray) {k j : SlotIdx} (p : Pixel) (h : j ≠ k) :
    readSlot (writeSlot t k p) j = readSlot t j := by
  have : k.toNat ≠ j.toNat := fun e => h (BitVec.eq_of_toNat_eq e.symm)
  simp [readSlot, writeSlot, Vector.get_eq_getElem, this]

/-- What a slot reads as after a write, at any slot. -/
theorem readSlot_writeSlot (t : SlotArray) (k j : SlotIdx) (p : Pixel) :
    readSlot (writeSlot t k p) j = if j = k then p else readSlot t j := by
  split
  · next h => rw [h, readSlot_writeSlot_same]
  · next h => exact readSlot_writeSlot_ne t p h

/-- Every slot of the cleared array is the sentinel (R29, R71). -/
@[simp] theorem readSlot_clearedSlots (k : SlotIdx) : readSlot clearedSlots k = Config.sentinel := by
  simp [readSlot, clearedSlots, Vector.get_eq_getElem]

/-- Arrays that read alike at every slot are equal: the array holds nothing else (R15, R24). -/
theorem slots_ext {t u : SlotArray} (h : ∀ k, readSlot t k = readSlot u k) : t = u := by
  apply Vector.ext
  intro i hi
  have := h (BitVec.ofNat 6 i)
  simp only [readSlot, Vector.get_eq_getElem] at this
  have e : ((BitVec.ofNat 6 i).toFin : Fin (2 ^ 6)).val = i := by
    simpa using Nat.mod_eq_of_lt (show i < 2 ^ 6 by simpa using hi)
  simpa [e, Nat.mod_eq_of_lt (show i < 64 by simpa using hi)] using this

/-- Writing what a slot holds changes nothing. -/
@[simp] theorem writeSlot_readSlot (t : SlotArray) (k : SlotIdx) : writeSlot t k (readSlot t k) = t :=
  slots_ext fun j => by
    rw [readSlot_writeSlot]
    split
    · next h => rw [h]
    · rfl

/-- The second of two writes to a slot is the one that counts. -/
@[simp] theorem writeSlot_writeSlot (t : SlotArray) (k : SlotIdx) (p q : Pixel) :
    writeSlot (writeSlot t k p) k q = writeSlot t k q :=
  slots_ext fun j => by
    simp only [readSlot_writeSlot]
    split <;> rfl

/-- The sentinel is at home in slot 0 (R42). -/
@[simp] theorem slotHash_sentinel : slotHash Config.sentinel = 0 := by decide

@[simp] theorem slotOfPixel_eq (p : Pixel) : slotOfPixel p = slotHash p := rfl
@[simp] theorem slotOfIndex_eq (k : SlotIdx) : slotOfIndex k = k := rfl

end Sys2Proof.Machine
end

