-- ==== Sys2Proof/Laws/Transaction.lean ====
section
/-! SUPPORT. One command: `exec` hands over what `transact` says, and the ways the slots can change. -/

namespace Sys2Proof.Machine

/-- Every command answers a next state: its transaction, committed. -/
theorem exec_eq_commit (i : Instr) (s : State) : exec i s = .next (s.commit (transact s.cache i)) := by
  cases i <;> rfl

/-- Everything a command can do to the slots (R18). -/
theorem transact_slots_cases (t : SlotArray) (i : Instr) :
    (transact t i).slots = t ∨
    (i = .clear ∧ (transact t i).slots = clearedSlots) ∨
    (∃ p, i = .store p ∧ (transact t i).slots = writeSlot t (slotHash p) p) := by
  cases i with
  | nop => exact .inl rfl
  | clear => exact .inr (.inl ⟨rfl, rfl⟩)
  | hash p => exact .inl rfl
  | lookup p => exact .inl rfl
  | store p => exact .inr (.inr ⟨p, rfl, rfl⟩)
  | read k => exact .inl rfl
  | reserved110 => exact .inl rfl
  | reserved111 => exact .inl rfl

@[simp] theorem runInstrs_nil (t : SlotArray) : runInstrs t [] = (t, []) := rfl

@[simp] theorem runInstrs_cons (t : SlotArray) (i : Instr) (is : List Instr) :
    runInstrs t (i :: is) =
      ((runInstrs (transact t i).slots is).1, (transact t i).rsp :: (runInstrs (transact t i).slots is).2) :=
  rfl

/-- A sequence is run by running its parts one after another (R39). -/
theorem runInstrs_append (t : SlotArray) (is js : List Instr) :
    runInstrs t (is ++ js) =
      ((runInstrs (runInstrs t is).1 js).1, (runInstrs t is).2 ++ (runInstrs (runInstrs t is).1 js).2) := by
  induction is generalizing t with
  | nil => rfl
  | cons i is ih => simp [ih]

/-- One response for each command (R49). -/
@[simp] theorem runInstrs_length (t : SlotArray) (is : List Instr) :
    (runInstrs t is).2.length = is.length := by
  induction is generalizing t with
  | nil => rfl
  | cons i is ih => simp [ih]

@[simp] theorem runWords_nil (t : SlotArray) : runWords t [] = (t, []) := rfl

@[simp] theorem runWords_cons (t : SlotArray) (w : CmdWord) (ws : List CmdWord) :
    runWords t (w :: ws) =
      ((runWords (issue t w).1 ws).1, (issue t w).2 :: (runWords (issue t w).1 ws).2) := rfl

end Sys2Proof.Machine
end

