-- ==== Sys2Proof/Laws/Edge.lean ====
section
/-! SUPPORT. Everything one edge can do, said once. -/

namespace Sys2Proof.Machine

/-- An edge with reset, an edge at which a command is accepted, or an edge without either. -/
theorem stepWith_cases (m : Config.Impl) (s : State) :
    (s.pins.rst = true ∧ stepWith m s = .next (resetEdge m s.takeInput)) ∨
    (s.pins.rst = false ∧ s.accepts = true ∧
      stepWith m s = .next (finishEdge m (holdAfter m (decode s.pins.cmd) s.edges)
        (s.takeInput.commit (transact s.cache (decode s.pins.cmd))))) ∨
    (s.pins.rst = false ∧ s.accepts = false ∧
      stepWith m s = .next (finishEdge m (s.hold - 1) s.takeInput)) := by
  by_cases hr : s.pins.rst = true
  · exact .inl ⟨hr, by simp [stepWith, hr]⟩
  · by_cases ha : s.accepts = true
    · exact .inr (.inl ⟨by simpa using hr, ha, by
        simp [stepWith, hr, ha, acceptEdge, exec_eq_commit]⟩)
    · exact .inr (.inr ⟨by simpa using hr, by simpa using ha, by simp [stepWith, hr, ha]⟩)

/-- What appears and what stays in flight are what was in flight (R49). -/
theorem popDue_responses (m : Config.Impl) (l : List Pending) :
    (popDue m l).1.toList ++ (popDue m l).2.map Pending.rsp = l.map Pending.rsp := by
  cases l with
  | nil => rfl
  | cons p rest =>
    simp only [popDue]
    split <;> simp

@[simp] theorem aged_nil : aged [] = [] := rfl

@[simp] theorem aged_append (l k : List Pending) : aged (l ++ k) = aged l ++ aged k := List.map_append

/-- Waiting changes no response. -/
@[simp] theorem aged_responses (l : List Pending) : (aged l).map Pending.rsp = l.map Pending.rsp := by
  simp [aged, Function.comp_def]

end Sys2Proof.Machine
end

