-- ==== Sys2Proof/Laws/PerInstr.lean ====
section
/-! SUPPORT. What holds of every command as syntax, one lemma a constructor. -/

namespace Sys2Proof.Laws.IgnoredFieldsZero

/-- An assembler writes zero in every field the command ignores (R54, R61): the pixel field unless the
command reads it, the index field unless it is READ. -/
def Statement (i : Instr) : Prop :=
  (opcode i ≠ 5 → idxField i = 0) ∧
  (opcode i ≠ 2 → opcode i ≠ 3 → opcode i ≠ 4 → pixField i = ⟨0, 0, 0, 0⟩)

theorem nop : Statement .nop := ⟨fun _ => rfl, fun _ _ _ => rfl⟩
theorem clear : Statement .clear := ⟨fun _ => rfl, fun _ _ _ => rfl⟩
theorem hash (p : Pixel) : Statement (.hash p) := ⟨fun _ => rfl, fun h _ _ => absurd rfl h⟩
theorem lookup (p : Pixel) : Statement (.lookup p) := ⟨fun _ => rfl, fun _ h _ => absurd rfl h⟩
theorem store (p : Pixel) : Statement (.store p) := ⟨fun _ => rfl, fun _ _ h => absurd rfl h⟩
theorem read (k : SlotIdx) : Statement (.read k) := ⟨fun h => absurd rfl h, fun _ _ _ => rfl⟩
theorem reserved110 : Statement .reserved110 := ⟨fun _ => rfl, fun _ _ _ => rfl⟩
theorem reserved111 : Statement .reserved111 := ⟨fun _ => rfl, fun _ _ _ => rfl⟩

end Sys2Proof.Laws.IgnoredFieldsZero
end

