-- ==== Sys2Proof/Tests/Slice0.lean ====
section
/-! SUPPORT. Tests on fixed values, and for every statement with hypotheses a witness that meets them.
Expected values are the spec's own: R51, R61 to R72, and the vectors of 95_test_vectors.md. -/

namespace Sys2Proof.Tests

open Sys2Proof.Machine

/-! ### Small values -/

/-- The pixels of 95_test_vectors.md. -/
def pxA : Pixel := ⟨10, 20, 30, 255⟩
def pxB : Pixel := ⟨28, 0, 0, 255⟩
def pxC : Pixel := ⟨0, 0, 0, 0⟩
def pxD : Pixel := ⟨0, 0, 0, 255⟩
def pxZ : Pixel := ⟨25, 0, 0, 255⟩

/-- An implementation with `RSP_LATENCY` 2 and `CLEAR_CYCLES` 3 that would hold `cmd_ready` low for 5. -/
def impl2 : Config.Impl := ⟨1, 3, fun _ => 5, fun _ => 7⟩

/-- One with `RSP_LATENCY` 1 that never holds `cmd_ready` low. -/
def impl1 : Config.Impl := ⟨0, 0, fun _ => 0, fun _ => 0⟩

/-- A state with given slots, signals and hold, and nothing in flight. -/
def st (t : SlotArray) (l : List PortIn) (h : Nat) : State := ⟨t, 0, false, [], h, l, 1⟩

/-- Slots that hold one pixel, at its home. -/
def holding (p : Pixel) : SlotArray := writeSlot clearedSlots (slotHash p) p

/-- What a step answers, if a next state. -/
def nextOf : Host.Outcome State Fault Refusal → Option State
  | .next s => some s
  | .fault _ => none
  | .refused _ => none

/-! ### WellFormed refuses an ill-formed statement for each check (R60, R61) -/

theorem test_wf_hash_r : (Source.hash 256 0 0 0).wf = false := by decide
theorem test_wf_lookup_g : (Source.lookup 0 256 0 0).wf = false := by decide
theorem test_wf_store_b : (Source.store 0 0 256 0).wf = false := by decide
theorem test_wf_probe_a : (Source.probe 0 0 0 256).wf = false := by decide
theorem test_wf_read_index : (Source.read 64).wf = false := by decide
theorem test_wf_word48 : (Source.word48 (2 ^ 48)).wf = false := by decide
theorem test_wf_bounds :
    (Source.hash 255 255 255 255).wf = true ∧ (Source.read 63).wf = true ∧
    (Source.word48 (2 ^ 48 - 1)).wf = true := by decide

/-! ### Decoding, one word a constructor, written out bit by bit from R50 and R52 -/

theorem test_decode_nop :
    decode 0b000_1111111_111111_00001010_00010100_00011110_11111111 = .nop := by decide
theorem test_decode_clear :
    decode 0b001_0000000_000000_00000000_00000000_00000000_00000000 = .clear := by decide
theorem test_decode_hash :
    decode 0b010_0000000_111111_00001010_00010100_00011110_11111111 = .hash ⟨10, 20, 30, 255⟩ := by decide
theorem test_decode_lookup :
    decode 0b011_1111111_000000_00001010_00010100_00011110_11111111 = .lookup ⟨10, 20, 30, 255⟩ := by decide
theorem test_decode_store :
    decode 0b100_1111111_111111_00001010_00010100_00011110_11111111 = .store ⟨10, 20, 30, 255⟩ := by decide
theorem test_decode_read :
    decode 0b101_0000000_001001_11111111_00000000_00000000_00000000 = .read 9 := by decide
theorem test_decode_reserved110 :
    decode 0b110_0000000_000000_00001010_00010100_00011110_11111111 = .reserved110 := by decide
theorem test_decode_reserved111 :
    decode 0b111_1111111_111111_11111111_11111111_11111111_11111111 = .reserved111 := by decide
theorem test_decode_read_63 : decodeTableWord 48 0xA03F00000000 = some (.read 63) := by decide
theorem test_decode_too_long : decodeBits 49 0 = .error (.wrongLength 49) := by decide
theorem test_decode_too_large : decodeBits 8 256 = .error (.tooLarge 256) := by decide

/-! ### Encoding (R51, 95_test_vectors.md) -/

theorem test_encode_read : encode (.read 9) = 0xA00900000000 := by decide
theorem test_encode_lookup : encode (.lookup pxA) = 0x60000A141EFF := by decide

/-! ### Commands (95_test_vectors.md, L2) -/

theorem test_hash_max : (issue clearedSlots 0x4000FFFFFFFF).2 = 0x2600000000 := by decide
theorem test_hash_alpha : (issue clearedSlots 0x4000000000C0).2 = 0x0000000000 := by decide
theorem test_lookup_sentinel : (issue clearedSlots 0x600000000000).2 = 0x4000000000 := by decide
theorem test_lookup_collision : (issue (holding pxA) 0x60001C0000FF).2 = 0x090A141EFF := by decide
theorem test_read_hit : (issue (holding pxA) 0xA00900000000).2 = 0x090A141EFF := by decide
theorem test_read_ignores_pixel : (issue clearedSlots 0xA0090A141EFF).2 = 0x0900000000 := by decide
theorem test_store_again : issue (holding pxA) 0x80000A141EFF = (holding pxA, 0x490A141EFF) := by decide
theorem test_store_evicts : issue (holding pxA) 0x80001C0000FF = (holding pxB, 0x090A141EFF) := by decide
theorem test_clear : issue (holding pxA) 0x200000000000 = (clearedSlots, 0) := by decide
theorem test_nop_fields_set : issue (holding pxA) 0x1FFF0A141EFF = (holding pxA, 0) := by decide
theorem test_reserved110 : issue (holding pxA) 0xC0000A141EFF = (holding pxA, 0x8000000000) := by decide
theorem test_reserved111 : issue (holding pxA) 0xFFFFFFFFFFFF = (holding pxA, 0x8000000000) := by decide
theorem test_store_clear_lookup :
    (runWords clearedSlots [0x80000A141EFF, 0x200000000000, 0x60000A141EFF]).2
      = [0x0900000000, 0x0000000000, 0x0900000000] := by decide

/-! ### One edge (R48, R49, R104, R109) -/

theorem test_edge_latency_1 :
    (nextOf (stepWith impl1 (st clearedSlots [offer 0x80000A141EFF] 0))).map (fun s => (s.rspValid, s.rsp))
      = some (true, 0x0900000000) := by decide
theorem test_edge_latency_2 :
    (nextOf (stepWith impl2 (st clearedSlots [offer 0x80000A141EFF] 0))).map
      (fun s => (s.rspValid, s.inflight, readSlot s.cache 9))
      = some (false, [⟨0x0900000000, 1⟩], pxA) := by decide
theorem test_edge_not_ready :
    (nextOf (stepWith impl2 (st clearedSlots [offer 0x80000A141EFF] 1))).map
      (fun s => (s.cache, s.inflight, s.hold)) = some (clearedSlots, [], 0) := by decide
theorem test_edge_clear_hold :
    (nextOf (stepWith impl2 (st (holding pxA) [offer 0x200000000000] 0))).map
      (fun s => (s.cache, s.hold)) = some (clearedSlots, 3) := by decide
theorem test_edge_reset_discards :
    (nextOf (stepWith impl2 { st (holding pxA) [⟨true, true, 0x80000A141EFF⟩] 0 with
      inflight := [⟨0, 1⟩] })).map (fun s => (s.cache, s.inflight, s.rspValid))
      = some (clearedSlots, [], false) := by decide
theorem test_step_after_reset :
    (nextOf (step (State.reset.withFetchWord 48 0x80000A141EFF))).map (fun s => readSlot s.cache 9)
      = some pxA := by decide

/-! ### Clients (95_test_vectors.md X1, X2 and P3's first pixels) -/

/-- The choice on a miss, for the tests: always Diff. -/
def pickDiff : Pixel → Pixel → CodedKind := fun _ _ => .diff

theorem test_client_two_equal :
    (encodeStream .reset [] ⟨false, false⟩ .rgba pickDiff clearedSlots [pxA, pxA]).events
      = [.chunk (.literalRgba pxA), .command ⟨0x80000A141EFF, 0x0900000000⟩, .chunk (.run 1)] := by decide
theorem test_client_sentinel_image :
    (encodeStream .reset [] ⟨false, false⟩ .rgba pickDiff clearedSlots [pxC]).events
      = [.chunk (.literalRgba pxC), .command ⟨0x800000000000, 0x4000000000⟩] := by decide
theorem test_client_stream_start :
    chunksOf (encodeStream .clear [] ⟨false, false⟩ .rgba pickDiff (holding pxB) [pxA, pxA, pxD, pxA]).events
      = [.literalRgba pxA, .run 1, .diff pxD, .index 9] := by decide
theorem test_decoder_replays :
    (decodeStream .reset [] false pxC clearedSlots [.literalRgba pxA, .run 1, .diff pxD, .index 9]).out
      = [pxA, pxA, pxD, pxA] := by decide

/-! ### Assembler text (R51, R61) -/

theorem test_asm_read : assembleText "READ 9 ; slot".toList = .ok [0xA00900000000] := by decide
theorem test_asm_tuple : assembleText "LOOKUP (10,20,30,255)".toList = .ok [0x60000A141EFF] := by decide
theorem test_asm_hex : assembleText "STORE 0x0A, 20, 30, 0xff".toList = .ok [0x80000A141EFF] := by decide
theorem test_asm_raw : assembleText ".word48 0xC000_0A14_1EFF".toList = .ok [0xC0000A141EFF] := by decide
theorem test_asm_lines : assembleText "CLEAR\n\nNOP".toList = .ok [0x200000000000, 0] := by decide
theorem test_asm_range : assembleText "HASH 0, 0, 0, 256".toList = .error .channelRange := by decide
theorem test_asm_syntax : assembleText "HASH 0, 0, 0".toList = .error .badSyntax := by decide

/-! ### Witnesses: values that meet the hypotheses of each statement together -/

theorem witness_HashSameAtEveryWidth :
    6 ≤ 6 ∧ (hashSumAtWidth 6 pxA).setWidth 6 = slotHash pxA ∧ 5 < 6 := by decide

theorem witness_OpcodeSelectsTheCommand :
    (0x1FFFFFFFFFFF : CmdWord).extractLsb' 45 3 = 0b000 ∧ (0x200000000000 : CmdWord).extractLsb' 45 3 = 0b001 ∧
    (0x400000000000 : CmdWord).extractLsb' 45 3 = 0b010 ∧ (0x600000000000 : CmdWord).extractLsb' 45 3 = 0b011 ∧
    (0x9FFFFFFFFFFF : CmdWord).extractLsb' 45 3 = 0b100 ∧ (0xA00000000000 : CmdWord).extractLsb' 45 3 = 0b101 ∧
    (0xDFFFFFFFFFFF : CmdWord).extractLsb' 45 3 = 0b110 ∧ (0xFFFFFFFFFFFF : CmdWord).extractLsb' 45 3 = 0b111 := by
  decide

theorem witness_IgnoredFieldsHaveNoEffect :
    (⟨0b100, 0, 0, pxA⟩ : Command).op ≠ 0b101 ∧
    (⟨0b101, 0, 9, pxA⟩ : Command).op ≠ 0b010 ∧ (⟨0b101, 0, 9, pxA⟩ : Command).op ≠ 0b011 ∧
    (⟨0b101, 0, 9, pxA⟩ : Command).op ≠ 0b100 ∧
    (transact clearedSlots (decode (Command.pack ⟨0b110, 0, 0, pxA⟩))).rsp.err = true ∧
    (transact clearedSlots (decode (Command.pack ⟨0b111, 0, 0, pxA⟩))).rsp.err = true := by decide

theorem witness_NopResult : (0x1FFF0A141EFF : CmdWord).extractLsb' 45 3 = 0b000 := by decide

theorem witness_ClearResult :
    (0x3FFFFFFFFFFF : CmdWord).extractLsb' 45 3 = 0b001 ∧
    ∀ k, readSlot clearedSlots k = Config.sentinel := by decide

theorem witness_HashResult :
    (0x40000A141EFF : CmdWord).extractLsb' 45 3 = 0b010 ∧
    (⟨64, 128, 192, 64⟩ : Pixel).r.extractLsb' 0 6 = pxC.r.extractLsb' 0 6 ∧
    (⟨64, 128, 192, 64⟩ : Pixel).g.extractLsb' 0 6 = pxC.g.extractLsb' 0 6 ∧
    (⟨64, 128, 192, 64⟩ : Pixel).b.extractLsb' 0 6 = pxC.b.extractLsb' 0 6 ∧
    (⟨64, 128, 192, 64⟩ : Pixel).a.extractLsb' 0 6 = pxC.a.extractLsb' 0 6 := by decide

theorem witness_LookupResult :
    (0x60000A141EFF : CmdWord).extractLsb' 45 3 = 0b011 ∧ pxA ≠ Config.sentinel ∧
    (pxB ≠ pxA ∧ slotHash pxB = slotHash pxA ∧ readSlot (holding pxA) (slotHash pxA) = pxA) ∧
    ((254 : Byte) ≠ pxA.a ∧ readSlot (writeSlot clearedSlots (slotHash pxA) { pxA with a := 254 })
      (slotHash pxA) = { pxA with a := 254 }) := by decide

theorem witness_ReadResult : (0xA03F00000000 : CmdWord).extractLsb' 45 3 = 0b101 := by decide

theorem witness_StoreResult :
    (0x80000A141EFF : CmdWord).extractLsb' 45 3 = 0b100 ∧ (0 : SlotIdx) ≠ slotHash pxA ∧
    readSlot (holding pxA) (slotHash pxA) = pxA ∧ (pxZ ≠ Config.sentinel ∧ slotHash pxZ = 0) := by decide

theorem witness_ReservedOpcodeResult :
    (0xC0000A141EFF : CmdWord).extractLsb' 45 3 = 0b110 ∧
    (0xE00000000000 : CmdWord).extractLsb' 45 3 = 0b111 := by decide

theorem witness_ErrorLeavesNoTrace :
    isReserved .reserved110 = true ∧ isReserved .reserved111 = true := by decide

theorem witness_FrameOfEveryCommand :
    (nextOf (exec (.store pxA) (st clearedSlots [] 0))).isSome = true ∧ (0 : SlotIdx) ≠ slotOfPixel pxA ∧
    (nextOf (exec .nop (st clearedSlots [] 0))).isSome = true ∧ Instr.nop ≠ .clear := by decide

theorem witness_FrameOfEveryCommand_other : ∀ p, Instr.nop ≠ .store p := fun _ h => nomatch h

theorem witness_QuietCommandsAndIdempotency :
    isQuiet .nop = true ∧ isQuiet (.hash pxA) = true ∧ isQuiet (.lookup pxA) = true ∧
    isQuiet (.read 63) = true := by decide

theorem witness_SlotsHoldTheLastStores :
    ∀ i ∈ [Instr.store pxA, .nop, .store pxB], i ≠ .clear := by decide

theorem witness_SentinelAliasesSlotZeroOnly :
    pxZ ≠ Config.sentinel ∧ readSlot clearedSlots (slotHash pxZ) = Config.sentinel := by decide

theorem witness_NoPresenceBit : readSlot (holding pxA) 0 = Config.sentinel := by decide

theorem witness_SlotInvariantOfTheCommands : SlotsHome (holding pxA) := by decide

theorem witness_ResetEdgeEffect : (st (holding pxA) [⟨true, true, 0⟩] 0).pins.rst = true := by decide

theorem witness_AcceptanceRule :
    (st clearedSlots [offer 0] 0).accepts = true ∧ (st clearedSlots [offer 0] 1).accepts = false ∧
    (st clearedSlots [offer 0] 1).pins.rst = false ∧
    (st clearedSlots [offer 0] 1).input = offer 0 :: [] ∧
    (st clearedSlots [offer 0] 1).outputs.cmdReady = false := by decide

theorem witness_StepRunsTheDecodedCommand :
    (st clearedSlots [offer 0x80000A141EFF] 0).input = ⟨false, true, 0x80000A141EFF⟩ :: [] ∧
    (st clearedSlots [offer 0x80000A141EFF] 0).hold = 0 := by decide

theorem witness_StepKeepsSlotsHome :
    SlotsHome (State.reset.withFetchWord 48 0x80000A141EFF).cache ∧
    (nextOf (step (State.reset.withFetchWord 48 0x80000A141EFF))).isSome = true := by decide

theorem witness_StepKeepsPipelineOrder :
    PipelineOk impl2 { st clearedSlots [offer 0] 0 with inflight := [⟨0x0900000000, 1⟩] }.inflight ∧
    (nextOf (stepWith impl2 { st clearedSlots [offer 0] 0 with
      inflight := [⟨0x0900000000, 1⟩] })).isSome = true ∧
    PipelineOk Config.impl (State.reset.withFetchWord 48 0x80000A141EFF).inflight ∧
    (nextOf (step (State.reset.withFetchWord 48 0x80000A141EFF))).isSome = true := by decide

theorem witness_ResponseAfterExactlyRspLatency :
    PipelineOk impl2 [⟨0x0900000000, 1⟩] ∧
    { st clearedSlots [offer 0x80000A141EFF, PortIn.idle] 0 with inflight := [⟨0x0900000000, 1⟩] }.accepts
      = true ∧
    { st clearedSlots [offer 0x80000A141EFF, PortIn.idle] 0 with
      inflight := [⟨0x0900000000, 1⟩] }.NoReset impl2.rspLatency := by decide

theorem witness_PortRefinesTheFold : (st clearedSlots [offer 0x80000A141EFF, PortIn.idle] 0).NoReset 2 := by
  decide

theorem witness_TimingNeverChangesResponses :
    (st clearedSlots [offer 0x80000A141EFF] 0).NoReset 1 ∧
    (st clearedSlots [PortIn.idle, offer 0x80000A141EFF] 1).NoReset 2 ∧
    (st clearedSlots [offer 0x80000A141EFF] 0).due
      = (st clearedSlots [PortIn.idle, offer 0x80000A141EFF] 1).due ∧
    (portTrace impl1 1 (st clearedSlots [offer 0x80000A141EFF] 0)).accepted
      = (portTrace impl2 2 (st clearedSlots [PortIn.idle, offer 0x80000A141EFF] 1)).accepted := by decide

theorem witness_ReadyWithinClearCycles :
    (st (holding pxA) [⟨true, false, 0⟩] 0).pins.rst = true ∧
    (nextOf (stepWith impl2 (st (holding pxA) [⟨true, false, 0⟩] 0))).isSome = true ∧
    ((st (holding pxA) [offer 0x200000000000] 0).accepts = true ∧
      decode (st (holding pxA) [offer 0x200000000000] 0).pins.cmd = .clear) ∧
    (nextOf (stepWith impl2 (st (holding pxA) [offer 0x200000000000] 0))).isSome = true := by decide

theorem witness_ReadyWithinClearCycles_hold :
    (st clearedSlots [offer 0, offer 0] 2).NoReset (st clearedSlots [offer 0, offer 0] 2).hold := by decide

/-- Ready edges with no command and no reset: nothing is accepted. -/
theorem witness_ReadyWithinClearCycles_idle :
    (st (holding pxA) [PortIn.idle, PortIn.idle] 0).NoReset 25 ∧
    (portTrace impl2 25 (st (holding pxA) [PortIn.idle, PortIn.idle] 0)).accepted = [] := by decide

theorem witness_ReadyWithinClearCycles_first :
    (nextOf (stepWith impl2 (st (holding pxA) [offer 0x200000000000, offer 0] 0))).map
      (fun t => (t.hold, decide (t.NoReset 1), (portTrace impl2 1 t).accepted))
      = some (3, true, []) := by decide

/-- An instance alone, of the implementation the machine is, is the machine. -/
theorem test_coreWith_impl : coreWith Config.impl = core := rfl

theorem test_instances_of_two_kinds :
    (match runInstances (fun k => if k = 0 then impl1 else impl2)
        [st clearedSlots [offer 0x80000A141EFF] 0, st clearedSlots [offer 0x80000A141EFF] 0] [1, 0] with
      | .next zs => zs.map fun s => (s.rspValid, readSlot s.cache 9)
      | .fault _ => []
      | .refused _ => []) = [(true, pxA), (false, pxA)] := by decide

theorem witness_InstancesShareNothing :
    (∃ zs, runInstances (fun k => if k = 0 then impl1 else impl2)
      [State.reset, State.reset] [0, 1, 0] = .next zs) ∧
    [State.reset, State.reset][1]? = some State.reset := ⟨⟨_, rfl⟩, rfl⟩

/-- Commands a client may issue before its first pixel (R76). -/
def warmUp : List Instr := [.nop, .hash pxA, .lookup pxA, .read 0]

theorem witness_EncoderSlotsDependOnlyOnPixels : ∀ i ∈ warmUp, isQuiet i = true := by decide

theorem witness_DecoderStaysInLockstep :
    (∀ i ∈ warmUp, isQuiet i = true) ∧ (∀ i ∈ [Instr.nop], isQuiet i = true) ∧
    (Channels.rgb = .rgb → pxD.a = 255) := by decide

theorem witness_ExactReconstructionGivesLockstep :
    (∀ i ∈ warmUp, isQuiet i = true) ∧ (∀ i ∈ [Instr.nop], isQuiet i = true) ∧
    List.Forall₂ (fun c d => sameCacheUse c d = true)
      (chunksOf (encodeStream .clear warmUp ⟨false, false⟩ .rgba pickDiff (holding pxB)
        [pxA, pxA, pxD, pxA]).events)
      [.literalRgba pxA, .run 1, .luma pxD, .index 9] ∧
    (decodeStream .reset [.nop] false pxC clearedSlots [.literalRgba pxA, .run 1, .luma pxD, .index 9]).out
      = [pxA, pxA, pxD, pxA].map (operandPixel .rgba) := by decide

theorem witness_LeftOutStoresChangeNothing :
    (∀ i ∈ warmUp, isQuiet i = true) ∧ (∀ i ∈ [Instr.nop], isQuiet i = true) ∧
    (Channels.rgb = .rgb → pxD.a = 255) := by decide

theorem witness_SentinelHitIsReproduced :
    pxA ≠ Config.sentinel ∧ readSlot (holding pxA) 0 = Config.sentinel := by decide

theorem witness_OffHomeIndexReadsTheSentinel :
    SlotsHome (holding pxA) ∧ slotHash (readSlot (holding pxA) 63) ≠ 63 := by decide

theorem witness_ConformingClientsNeverAbort :
    (∀ i ∈ warmUp, isQuiet i = true) ∧
    (⟨0xC00000000000, 0x8000000000⟩ : Exchange) ∈ [(⟨0xC00000000000, 0x8000000000⟩ : Exchange)] ∧
    (⟨0xC00000000000, 0x8000000000⟩ : Exchange).reply.err = true := by decide

theorem witness_AssemblerPlacesOrRefuses :
    255 < 256 ∧ 63 < 64 ∧ 255 ≤ 255 ∧ 63 ≤ 63 ∧ 2 ^ 48 - 1 < 2 ^ 48 := by decide

end Sys2Proof.Tests
end

section
/-! SUPPORT. Proofs about the slots and about reset (10_state.md). -/

namespace Sys2Proof.Machine

/-! ### What a command does to the slots -/

@[simp] theorem transact_clear_slots (t : SlotArray) : (transact t .clear).slots = clearedSlots := rfl

@[simp] theorem transact_store_slots (t : SlotArray) (p : Pixel) :
    (transact t (.store p)).slots = writeSlot t (slotHash p) p := rfl

/-- R18: only CLEAR and STORE write a slot. -/
theorem transact_slots_of_ne (t : SlotArray) {i : Instr} (hclear : i ≠ .clear)
    (hstore : ∀ p, i ≠ .store p) : (transact t i).slots = t := by
  obtain hkeep | ⟨rfl, -⟩ | ⟨p, rfl, -⟩ := transact_slots_cases t i
  · exact hkeep
  · exact absurd rfl hclear
  · exact absurd rfl (hstore p)

/-- R41: a STORE of the pixel its home slot already holds changes no slot. -/
theorem transact_store_slots_of_held {t : SlotArray} {p : Pixel} (h : readSlot t (slotHash p) = p) :
    (transact t (.store p)).slots = t := by
  calc (transact t (.store p)).slots
      = writeSlot t (slotHash p) (readSlot t (slotHash p)) := by rw [transact_store_slots, h]
    _ = t := writeSlot_readSlot t (slotHash p)

/-- R66: a LOOKUP hits exactly when the pixel's home slot holds that pixel. -/
theorem transact_lookup_hit_iff (t : SlotArray) (p : Pixel) :
    (transact t (.lookup p)).rsp.hit = true ↔ readSlot t (slotHash p) = p :=
  decide_eq_true_iff

/-! ### The slot invariant (R19) -/

theorem slotsHome_clearedSlots : SlotsHome clearedSlots :=
  fun k => .inl (readSlot_clearedSlots k)

/-- A pixel written at its home keeps the invariant: the written slot holds a pixel at home, and every
other slot holds what it held. -/
theorem slotsHome_writeSlot {t : SlotArray} (ht : SlotsHome t) (p : Pixel) :
    SlotsHome (writeSlot t (slotHash p) p) := by
  intro k
  by_cases hk : k = slotHash p
  · subst hk
    exact .inr (by rw [readSlot_writeSlot_same])
  · rw [readSlot_writeSlot_ne t p hk]
    exact ht k

/-- Settles O29: each clause is the invariant's law for what that command does to the slots. -/
theorem slotInvariantOfTheCommands : Obligations.SlotInvariantOfTheCommands := by
  unfold Obligations.SlotInvariantOfTheCommands
  refine ⟨?reset, ?clear, ?store, ?others⟩
  case reset => exact slotsHome_clearedSlots
  case clear =>
    intro t
    rw [transact_clear_slots]
    exact slotsHome_clearedSlots
  case store =>
    intro t p ht
    rw [transact_store_slots]
    exact slotsHome_writeSlot ht p
  case others => exact fun t _ hclear hstore => transact_slots_of_ne t hclear hstore

/-! ### The sentinel (R24, R25) -/

/-- Settles O26: a hit is equality with what the home slot holds, and the sentinel's home is slot 0. -/
theorem sentinelAliasesSlotZeroOnly : Obligations.SentinelAliasesSlotZeroOnly := by
  unfold Obligations.SentinelAliasesSlotZeroOnly
  refine ⟨slotHash_sentinel, fun t => ?sentinel, fun t p hp hheld => ?other⟩
  case sentinel => rw [transact_lookup_hit_iff, slotHash_sentinel]
  case other =>
    rw [← Bool.not_eq_true, transact_lookup_hit_iff, hheld]
    exact hp.symm

/-- Settles O27: the STORE leaves the very same slots, which are all that a later command can see. -/
theorem noPresenceBit : Obligations.NoPresenceBit := by
  unfold Obligations.NoPresenceBit
  intro t is h
  have hheld : readSlot t (slotHash Config.sentinel) = Config.sentinel := by
    rw [slotHash_sentinel, h]
  rw [transact_store_slots_of_held hheld]

/-! ### Reset (R29 to R31, R104, R105) -/

theorem pipelineOk_nil (m : Config.Impl) : PipelineOk m [] :=
  ⟨.nil, fun _ h => nomatch h⟩

theorem State.resetWith_inv (m : Config.Impl) : (State.resetWith m).Inv m :=
  ⟨slotsHome_clearedSlots, pipelineOk_nil m⟩

theorem State.resetWith_hold_le (m : Config.Impl) : (State.resetWith m).hold ≤ m.clearCycles :=
  Nat.min_le_right ..

theorem resetEdge_hold_le (m : Config.Impl) (s : State) : (resetEdge m s).hold ≤ m.clearCycles :=
  Nat.min_le_right ..

theorem State.acceptedWord_of_rst {s : State} (h : s.pins.rst = true) : s.acceptedWord = none := by
  simp [State.acceptedWord, State.accepts, h]

theorem State.outputs_of_rst {s : State} (h : s.pins.rst = true) : s.outputs = ⟨false, false, 0⟩ := by
  simp [State.outputs, State.cmdReady, h]

theorem stepWith_of_rst (m : Config.Impl) {s : State} (h : s.pins.rst = true) :
    stepWith m s = .next (resetEdge m s.takeInput) :=
  if_pos h

/-- Settles O30: the fields of the reset state, one by one. -/
theorem resetState : Obligations.ResetState := by
  unfold Obligations.ResetState
  refine ⟨rfl, rfl, fun m => ⟨fun k => ?slots, State.resetWith_rsp m, State.resetWith_rspValid m,
    State.resetWith_inflight m, State.resetWith_hold_le m, State.resetWith_inv m⟩⟩
  case slots => rw [State.resetWith_cache, readSlot_clearedSlots]

/-- Settles O31: an edge with `rst = 1` is the reset edge, whose fields are read off; log entry 7 is why
the outputs are 0 already in the cycle before it. -/
theorem resetEdgeEffect : Obligations.ResetEdgeEffect := by
  unfold Obligations.ResetEdgeEffect
  intro m s h
  refine ⟨State.acceptedWord_of_rst h, State.outputs_of_rst h, resetEdge m s.takeInput,
    stepWith_of_rst m h, fun k => ?slots, resetEdge_rsp _ m, resetEdge_rspValid _ m,
    resetEdge_inflight _ m, resetEdge_hold_le m _, ?input⟩
  case slots => rw [resetEdge_cache, readSlot_clearedSlots]
  case input => rw [resetEdge_input, State.takeInput_input]

end Sys2Proof.Machine
end

section
/-! SUPPORT. Proofs about the port: an edge without reset is at most one command of the fold (R39, R49). -/

namespace Sys2Proof.Machine

/-- A sequence of words is run by running its parts one after another (R39). -/
theorem runWords_append (t : SlotArray) (ws vs : List CmdWord) :
    runWords t (ws ++ vs) =
      ((runWords (runWords t ws).1 vs).1, (runWords t ws).2 ++ (runWords (runWords t ws).1 vs).2) := by
  induction ws generalizing t with
  | nil => rfl
  | cons w ws ih => simp [ih]

/-! ### Edges without reset -/

/-- Without reset now, the coming edge is one without reset; idle pins are too. -/
theorem State.NoReset.pins_rst {s : State} {n : Nat} (h : s.NoReset (n + 1)) : s.pins.rst = false := by
  cases hin : s.input with
  | nil => simp [State.pins, hin, PortIn.idle]
  | cons e rest =>
    have he : e.rst = false := h e (by simp [hin])
    simpa [State.pins, hin] using he

/-- Once the coming edge's signals are taken, the remaining edges are without reset. -/
theorem State.NoReset.of_tail {s t : State} {n : Nat} (h : s.NoReset (n + 1))
    (ht : t.input = s.input.tail) : t.NoReset n := by
  intro e he
  have hmem : e ∈ (s.input.take (n + 1)).tail := by
    rwa [List.tail_take_eq_take_tail, Nat.add_sub_cancel, ← ht]
  exact h e (List.mem_of_mem_tail hmem)

theorem State.acceptedWord_of_accepts {s : State} (h : s.accepts = true) :
    s.acceptedWord = some s.pins.cmd :=
  if_pos h

theorem State.acceptedWord_of_not_accepts {s : State} (h : s.accepts = false) : s.acceptedWord = none := by
  simp [State.acceptedWord, h]

/-! ### Responses taken and responses due -/

/-- Without reset, what is due is what the client now takes and then what is in flight (R47, R49). -/
theorem State.due_eq_taken_append {s : State} (h : s.pins.rst = false) :
    s.due = s.taken ++ s.inflight.map Pending.rsp := by
  simp [State.due, State.taken, State.outputs, h]

/-- The end of an edge loses, invents and reorders no response that was in flight (R49). -/
theorem finishEdge_due (m : Config.Impl) (h : Nat) (s : State) :
    (finishEdge m h s).due = s.inflight.map Pending.rsp := by
  have hpop := popDue_responses m (aged s.inflight)
  rw [aged_responses] at hpop
  rw [← hpop]
  cases hout : (popDue m (aged s.inflight)).1 <;> simp [State.due, hout]

/-! ### One edge, and many -/

/-- The step lemma of R39: an edge without reset runs the word it accepts, if any, on the slots, and puts
that word's response behind all that are due. -/
theorem stepWith_refines_runWords (m : Config.Impl) {s : State} (h : s.pins.rst = false) :
    ∃ t, stepWith m s = .next t ∧ t.input = s.input.tail ∧
      t.cache = (runWords s.cache s.acceptedWord.toList).1 ∧
      s.taken ++ t.due = s.due ++ (runWords s.cache s.acceptedWord.toList).2 := by
  obtain ⟨hr, -⟩ | ⟨-, ha, hstep⟩ | ⟨-, ha, hstep⟩ := stepWith_cases m s
  · simp [h] at hr
  · rw [State.acceptedWord_of_accepts ha]
    refine ⟨_, hstep, rfl, rfl, ?accepted⟩
    rw [finishEdge_due, State.commit_inflight, State.takeInput_inflight, List.map_append,
      ← List.append_assoc, ← State.due_eq_taken_append h]
    rfl
  · rw [State.acceptedWord_of_not_accepts ha]
    refine ⟨_, hstep, rfl, rfl, ?notAccepted⟩
    rw [finishEdge_due, State.takeInput_inflight, ← State.due_eq_taken_append h]
    exact (List.append_nil _).symm

/-- What the port shows over one edge more, from what that edge leaves. -/
theorem portTrace_succ {m : Config.Impl} {s t : State} (h : stepWith m s = .next t) (n : Nat) :
    portTrace m (n + 1) s =
      ⟨s.acceptedWord.toList ++ (portTrace m n t).accepted, s.taken ++ (portTrace m n t).taken,
        (portTrace m n t).final⟩ := by
  simp only [portTrace, h]

/-- Settles O38, by induction on the edges: each is one step of the fold, and folds compose. -/
theorem portRefinesTheFold : Obligations.PortRefinesTheFold := by
  unfold Obligations.PortRefinesTheFold
  intro m n
  induction n with
  | zero => exact fun s _ => ⟨rfl, (List.append_nil _).symm⟩
  | succ n ih =>
    intro s hs
    obtain ⟨t, hstep, hinput, hcache, hdue⟩ := stepWith_refines_runWords m hs.pins_rst
    obtain ⟨ihcache, ihdue⟩ := ih t (hs.of_tail hinput)
    rw [portTrace_succ hstep, runWords_append, ← hcache]
    refine ⟨ihcache, ?responses⟩
    case responses =>
      calc s.taken ++ (portTrace m n t).taken ++ (portTrace m n t).final.due
          = s.taken ++ (t.due ++ (runWords t.cache (portTrace m n t).accepted).2) := by
            rw [List.append_assoc, ihdue]
        _ = s.due ++ (runWords s.cache s.acceptedWord.toList).2
              ++ (runWords t.cache (portTrace m n t).accepted).2 := by rw [← List.append_assoc, hdue]
        _ = _ := List.append_assoc ..

end Sys2Proof.Machine
end

section
/-! SUPPORT. Proofs about the commands that change nothing: queries and repeated updates (R41, R69). -/

namespace Sys2Proof.Machine

/-- R41, R69: HASH, LOOKUP, READ and NOP are neither CLEAR nor STORE, so they write no slot. -/
theorem transact_slots_of_isQuiet (t : SlotArray) {i : Instr} (h : isQuiet i = true) :
    (transact t i).slots = t :=
  transact_slots_of_ne t (by rintro rfl; exact nomatch h) (by rintro p rfl; exact nomatch h)

/-- A quiet command within a sequence adds its own response and is otherwise not seen (R41). -/
theorem runInstrs_append_quiet_cons (t : SlotArray) (is js : List Instr) {i : Instr}
    (h : isQuiet i = true) :
    runInstrs t (is ++ i :: js) =
      ((runInstrs t (is ++ js)).1,
        (runInstrs t is).2 ++ (transact (runInstrs t is).1 i).rsp :: (runInstrs (runInstrs t is).1 js).2) := by
  rw [runInstrs_append, runInstrs_append, runInstrs_cons, transact_slots_of_isQuiet _ h]

@[simp] theorem transact_store_rsp (t : SlotArray) (p : Pixel) :
    (transact t (.store p)).rsp = probeResponse t p := rfl

/-- R66, R72: asked for the pixel its home slot holds, LOOKUP and STORE answer hit with that pixel. -/
theorem probeResponse_of_held {t : SlotArray} {p : Pixel} (h : readSlot t (slotHash p) = p) :
    probeResponse t p = ⟨false, true, slotHash p, p⟩ := by
  simp [probeResponse, hitFlag, Response.zero, h]

/-- R41: a STORE of the pixel its home slot already holds is a LOOKUP that hits. -/
theorem transact_store_of_held {t : SlotArray} {p : Pixel} (h : readSlot t (slotHash p) = p) :
    transact t (.store p) = ⟨t, ⟨false, true, slotHash p, p⟩⟩ :=
  calc transact t (.store p)
      = ⟨(transact t (.store p)).slots, (transact t (.store p)).rsp⟩ := rfl
    _ = ⟨t, ⟨false, true, slotHash p, p⟩⟩ := by
      rw [transact_store_slots_of_held h, transact_store_rsp, probeResponse_of_held h]

/-- Settles O23: a quiet command hands on the slots it found, and after a STORE the pixel is held. -/
theorem quietCommandsAndIdempotency : Obligations.QuietCommandsAndIdempotency := by
  unfold Obligations.QuietCommandsAndIdempotency
  refine ⟨fun t _ hi => transact_slots_of_isQuiet t hi, fun t i is js hi => ?insert, fun t p => ?store,
    fun _ => rfl⟩
  case insert =>
    rw [runInstrs_append_quiet_cons t is js hi]
    refine ⟨rfl, ?_⟩
    rw [List.eraseIdx_append_of_length_le (by rw [runInstrs_length]), runInstrs_length, Nat.sub_self,
      List.eraseIdx_cons_zero, runInstrs_append]
  case store =>
    exact transact_store_of_held (by rw [transact_store_slots, readSlot_writeSlot_same])

end Sys2Proof.Machine
end

section
/-! SUPPORT. Proofs about the command word: its fields, the opcode, and the fields a command ignores
(30_encoding.md, R50 to R54, R58). -/

namespace Sys2Proof

/-! ### The word as a number (R51) -/

/-- A concatenation as a number: the upper part stands above the `n` bits of the lower one. -/
theorem toNat_append_eq_mul_add {m n : Nat} (x : BitVec m) (y : BitVec n) :
    (x ++ y).toNat = x.toNat * 2 ^ n + y.toNat := by
  rw [BitVec.toNat_append, ← Nat.shiftLeft_add_eq_or_of_lt y.isLt, Nat.shiftLeft_eq]

theorem Pixel.word_toNat (p : Pixel) :
    p.word.toNat = p.r.toNat * 2 ^ 24 + p.g.toNat * 2 ^ 16 + p.b.toNat * 2 ^ 8 + p.a.toNat := by
  simp only [Pixel.word, toNat_append_eq_mul_add]
  ring

theorem Command.pack_toNat (f : Command) :
    (Command.pack f).toNat
      = f.op.toNat * 2 ^ 45 + f.rsv.toNat * 2 ^ 38 + f.idx.toNat * 2 ^ 32 + f.pix.r.toNat * 2 ^ 24
        + f.pix.g.toNat * 2 ^ 16 + f.pix.b.toNat * 2 ^ 8 + f.pix.a.toNat := by
  simp only [Command.pack, toNat_append_eq_mul_add, Pixel.word_toNat]
  ring

/-! ### The word as its fields (R50) -/

theorem Command.pack_op (f : Command) : (Command.pack f).extractLsb' 45 3 = f.op := by
  rw [Command.pack, BitVec.extractLsb'_append_eq_of_le (by omega),
    BitVec.extractLsb'_append_eq_of_le (by omega)]
  exact BitVec.extractLsb'_append_eq_left

theorem Command.pack_rsv (f : Command) : (Command.pack f).extractLsb' 38 7 = f.rsv := by
  rw [Command.pack, BitVec.extractLsb'_append_eq_of_le (by omega),
    BitVec.extractLsb'_append_eq_of_le (by omega)]
  exact BitVec.extractLsb'_append_eq_right

theorem Command.pack_idx (f : Command) : (Command.pack f).extractLsb' 32 6 = f.idx := by
  rw [Command.pack, BitVec.extractLsb'_append_eq_of_le (by omega)]
  exact BitVec.extractLsb'_append_eq_right

@[simp] theorem Command.unpack_pack (f : Command) : Command.unpack (Command.pack f) = f := by
  rw [Command.unpack, Command.pack_op, Command.pack_rsv, Command.pack_idx, Command.pack_low,
    Pixel.ofWord_word]

@[simp] theorem Command.pack_unpack (w : CmdWord) : Command.pack (Command.unpack w) = w := by
  simp only [Command.pack, Command.unpack, Pixel.word_ofWord]
  rw [BitVec.extractLsb'_append_extractLsb'_eq_extractLsb' (by omega),
    BitVec.extractLsb'_append_extractLsb'_eq_extractLsb' (by omega),
    BitVec.extractLsb'_append_extractLsb'_eq_extractLsb' (by omega)]
  exact BitVec.extractLsb'_eq_self

/-- A byte of a command word's low half is that byte of the word. -/
theorem extractByte_low {k : Nat} (hk : k + 8 ≤ 32) (w : CmdWord) :
    (w.extractLsb' 0 32).extractLsb' k 8 = w.extractLsb' k 8 := by
  ext i hi
  have hlt : k + i < 32 := by omega
  simp [hlt]

/-- R34, R50: the pixel field's channels at their bit positions in the word. -/
theorem Pixel.ofWord_low (w : CmdWord) :
    Pixel.ofWord (w.extractLsb' 0 32)
      = ⟨w.extractLsb' 24 8, w.extractLsb' 16 8, w.extractLsb' 8 8, w.extractLsb' 0 8⟩ := by
  simp only [Pixel.ofWord]
  rw [extractByte_low (by omega), extractByte_low (by omega), extractByte_low (by omega),
    extractByte_low (by omega)]

/-- Settles O5: the packed word is a concatenation, read as a number and field by field. -/
theorem commandWordIsItsFields : Obligations.CommandWordIsItsFields := by
  unfold Obligations.CommandWordIsItsFields
  refine ⟨Command.pack_toNat, Command.unpack_pack, Command.pack_unpack, fun w => ?positions, ?read,
    ?lookup⟩
  case positions => rw [Command.unpack, Pixel.ofWord_low]
  case read => decide
  case lookup => decide

/-! ### The opcode (R52, R58) -/

/-- The eight values of the opcode field, the table's rows in order. -/
theorem op_cases (op : BitVec 3) :
    op = 0b000 ∨ op = 0b001 ∨ op = 0b010 ∨ op = 0b011 ∨ op = 0b100 ∨ op = 0b101 ∨ op = 0b110 ∨
      op = 0b111 := by
  revert op
  decide

section
variable {f : Command}

theorem decodeCommand_nop (h : f.op = 0b000) : decodeCommand f = .nop := by
  simp [decodeCommand, h]

theorem decodeCommand_clear (h : f.op = 0b001) : decodeCommand f = .clear := by
  simp [decodeCommand, h]

theorem decodeCommand_hash (h : f.op = 0b010) : decodeCommand f = .hash f.pix := by
  simp [decodeCommand, h]

theorem decodeCommand_lookup (h : f.op = 0b011) : decodeCommand f = .lookup f.pix := by
  simp [decodeCommand, h]

theorem decodeCommand_store (h : f.op = 0b100) : decodeCommand f = .store f.pix := by
  simp [decodeCommand, h]

theorem decodeCommand_read (h : f.op = 0b101) : decodeCommand f = .read f.idx := by
  simp [decodeCommand, h]

theorem decodeCommand_reserved110 (h : f.op = 0b110) : decodeCommand f = .reserved110 := by
  simp [decodeCommand, h]

theorem decodeCommand_reserved111 (h : f.op = 0b111) : decodeCommand f = .reserved111 := by
  simp [decodeCommand, h]

end

/-- R58: the decoded command's opcode is the word's. -/
@[simp] theorem opcode_decodeCommand (f : Command) : opcode (decodeCommand f) = f.op := by
  rcases op_cases f.op with h | h | h | h | h | h | h | h
  · rw [decodeCommand_nop h, h, opcode_nop]
  · rw [decodeCommand_clear h, h, opcode_clear]
  · rw [decodeCommand_hash h, h, opcode_hash]
  · rw [decodeCommand_lookup h, h, opcode_lookup]
  · rw [decodeCommand_store h, h, opcode_store]
  · rw [decodeCommand_read h, h, opcode_read]
  · rw [decodeCommand_reserved110 h, h, opcode_reserved110]
  · rw [decodeCommand_reserved111 h, h, opcode_reserved111]

/-- Under the table's mask a command word is its opcode, in place: the mask shifts the low 45 bits out. -/
theorem and_opcodeMask (w : CmdWord) :
    w &&& 0xE00000000000 = BitVec.ofNat 48 ((w.extractLsb' 45 3).toNat * 2 ^ 45) := by
  have hmask : (0xE00000000000 : CmdWord) = BitVec.allOnes 48 <<< 45 := by decide
  have hw : w.toNat < 2 ^ 48 := w.isLt
  rw [hmask, ← BitVec.shiftLeft_ushiftRight]
  apply BitVec.eq_of_toNat_eq
  simp only [BitVec.toNat_shiftLeft, BitVec.toNat_ushiftRight, BitVec.extractLsb'_toNat,
    BitVec.toNat_ofNat, Nat.shiftLeft_eq, Nat.shiftRight_eq_div_pow]
  omega

/-- Settles O8: the decoder's equation at each opcode, and the opcode kept by decoding. -/
theorem opcodeSelectsTheCommand : Obligations.OpcodeSelectsTheCommand := by
  unfold Obligations.OpcodeSelectsTheCommand
  intro w
  have hop : opcode (decode w) = w.extractLsb' 45 3 := opcode_decodeCommand (Command.unpack w)
  refine ⟨decodeCommand_nop (f := .unpack w), decodeCommand_clear (f := .unpack w),
    decodeCommand_hash (f := .unpack w), decodeCommand_lookup (f := .unpack w),
    decodeCommand_store (f := .unpack w), decodeCommand_read (f := .unpack w),
    decodeCommand_reserved110 (f := .unpack w), decodeCommand_reserved111 (f := .unpack w), hop, ?mask⟩
  case mask => rw [hop, and_opcodeMask]

/-! ### Ignored fields (R53, R54) -/

@[simp] theorem decode_pack (f : Command) : decode (Command.pack f) = decodeCommand f := by
  rw [decode, Command.unpack_pack]

/-- R53, R54: decoding reads the opcode, the index of READ, and the pixel of HASH, LOOKUP and STORE, and
nothing else. -/
theorem decodeCommand_congr {f g : Command} (hop : g.op = f.op) (hidx : f.op = 0b101 → g.idx = f.idx)
    (hpix : f.op = 0b010 ∨ f.op = 0b011 ∨ f.op = 0b100 → g.pix = f.pix) :
    decodeCommand g = decodeCommand f := by
  rcases op_cases f.op with h | h | h | h | h | h | h | h
  · rw [decodeCommand_nop h, decodeCommand_nop (hop.trans h)]
  · rw [decodeCommand_clear h, decodeCommand_clear (hop.trans h)]
  · rw [decodeCommand_hash h, decodeCommand_hash (hop.trans h), hpix (.inl h)]
  · rw [decodeCommand_lookup h, decodeCommand_lookup (hop.trans h), hpix (.inr (.inl h))]
  · rw [decodeCommand_store h, decodeCommand_store (hop.trans h), hpix (.inr (.inr h))]
  · rw [decodeCommand_read h, decodeCommand_read (hop.trans h), hidx h]
  · rw [decodeCommand_reserved110 h, decodeCommand_reserved110 (hop.trans h)]
  · rw [decodeCommand_reserved111 h, decodeCommand_reserved111 (hop.trans h)]

theorem decodeCommand_set_rsv (f : Command) (v : BitVec 7) :
    decodeCommand { f with rsv := v } = decodeCommand f :=
  decodeCommand_congr rfl (fun _ => rfl) fun _ => rfl

theorem decodeCommand_set_idx {f : Command} (h : f.op ≠ 0b101) (v : SlotIdx) :
    decodeCommand { f with idx := v } = decodeCommand f :=
  decodeCommand_congr rfl (fun hread => absurd hread h) fun _ => rfl

theorem decodeCommand_set_pix {f : Command} (h : ¬(f.op = 0b010 ∨ f.op = 0b011 ∨ f.op = 0b100))
    (v : Pixel) : decodeCommand { f with pix := v } = decodeCommand f :=
  decodeCommand_congr rfl (fun _ => rfl) fun hpix => absurd hpix h

end Sys2Proof

namespace Sys2Proof.Machine

/-- A word is seen only through the command it decodes to: equal decodings execute alike (R53, R54). -/
theorem issue_pack_congr {f g : Command} (h : decodeCommand g = decodeCommand f) (t : SlotArray) :
    decode (Command.pack g) = decode (Command.pack f) ∧
      issue t (Command.pack g) = issue t (Command.pack f) := by
  simp [issue, h]

/-- R93, R95: the reserved class answers an error, and no other command does. -/
theorem transact_rsp_err (t : SlotArray) (i : Instr) : (transact t i).rsp.err = isReserved i := by
  cases i <;> rfl

/-- R59: the reserved class is the last two opcodes. -/
theorem isReserved_iff_opcode (i : Instr) :
    isReserved i = true ↔ opcode i = 0b110 ∨ opcode i = 0b111 := by
  cases i <;> simp [isReserved]

/-- Settles O9: a changed field that decoding does not read leaves the decoded command, and so what is
executed, the same. -/
theorem ignoredFieldsHaveNoEffect : Obligations.IgnoredFieldsHaveNoEffect := by
  unfold Obligations.IgnoredFieldsHaveNoEffect
  refine ⟨fun f v t => ?rsv, fun f v t hread => issue_pack_congr (decodeCommand_set_idx hread v) t,
    fun f v t hhash hlookup hstore => ?pix, fun f t herr => ?err, fun i => ?encoder⟩
  case rsv =>
    have hzero := (decodeCommand_set_rsv f v).trans (decodeCommand_set_rsv f 0).symm
    exact ⟨(issue_pack_congr (decodeCommand_set_rsv f v) t).1, (issue_pack_congr hzero t).2⟩
  case pix =>
    have hunread : ¬(f.op = 0b010 ∨ f.op = 0b011 ∨ f.op = 0b100) :=
      not_or.mpr ⟨hhash, not_or.mpr ⟨hlookup, hstore⟩⟩
    exact issue_pack_congr (decodeCommand_set_pix hunread v) t
  case err =>
    rwa [transact_rsp_err, isReserved_iff_opcode, decode_pack, opcode_decodeCommand] at herr
  case encoder => rw [encode, Command.unpack_pack]

/-- Settles O12: each command's response, whose error flag is that of its class. -/
theorem unproducedFieldsAreZero : Obligations.UnproducedFieldsAreZero := by
  unfold Obligations.UnproducedFieldsAreZero
  intro t p k
  exact ⟨rfl, rfl, rfl, transact_rsp_err t _, transact_rsp_err t _, rfl, rfl, rfl⟩

end Sys2Proof.Machine
end

section
/-! SUPPORT. Proofs about the assembler's pseudo commands (R62). -/

namespace Sys2Proof.Machine

/-- R69: over quiet commands the slots stay, and each response is the one to its command alone. -/
theorem runInstrs_of_isQuiet (t : SlotArray) {is : List Instr} (h : ∀ i ∈ is, isQuiet i = true) :
    runInstrs t is = (t, is.map fun i => (transact t i).rsp) := by
  induction is with
  | nil => rfl
  | cons i is ih =>
    obtain ⟨hi, his⟩ := List.forall_mem_cons.mp h
    rw [runInstrs_cons, transact_slots_of_isQuiet t hi, ih his, List.map_cons]

@[simp] theorem transact_read_rsp (t : SlotArray) (k : SlotIdx) :
    (transact t (.read k)).rsp = ⟨false, false, k, readSlot t k⟩ := rfl

@[simp] theorem dumpInstrs_length : dumpInstrs.length = 64 := by
  simp [dumpInstrs]

/-- R62: DUMP's command at each place reads the slot of that number. -/
theorem dumpInstrs_getElem? (k : SlotIdx) : dumpInstrs[k.toNat]? = some (.read k) := by
  have hk : k.toNat < Config.nSlots := k.isLt
  simp [dumpInstrs, hk]

theorem isQuiet_of_mem_dumpInstrs {i : Instr} (h : i ∈ dumpInstrs) : isQuiet i = true := by
  obtain ⟨k, -, rfl⟩ := List.mem_map.mp h
  rfl

/-- R62: DUMP changes no slot, and answers as its READs do on those slots. -/
theorem runInstrs_dumpInstrs (t : SlotArray) :
    runInstrs t dumpInstrs = (t, dumpInstrs.map fun i => (transact t i).rsp) :=
  runInstrs_of_isQuiet t fun _ => isQuiet_of_mem_dumpInstrs

/-- R62: DUMP's responses are the slots in order. -/
theorem dump_responses_getElem? (t : SlotArray) (k : SlotIdx) :
    (runInstrs t dumpInstrs).2[k.toNat]? = some ⟨false, false, k, readSlot t k⟩ := by
  rw [runInstrs_dumpInstrs, List.getElem?_map, dumpInstrs_getElem?, Option.map_some, transact_read_rsp]

/-- Equal DUMPs show equal slots, since each slot stands in its own response. -/
theorem slots_eq_of_dump_responses_eq {t u : SlotArray}
    (h : (runInstrs t dumpInstrs).2 = (runInstrs u dumpInstrs).2) : t = u := by
  apply slots_ext
  intro k
  have hk := dump_responses_getElem? t k
  rw [h, dump_responses_getElem?] at hk
  injection hk with hrsp
  exact (congrArg Response.pix hrsp).symm

/-- Settles O52: DUMP is quiet, and its responses hold every slot. -/
theorem dumpReadsTheWholeState : Obligations.DumpReadsTheWholeState := by
  unfold Obligations.DumpReadsTheWholeState
  refine ⟨rfl, fun _ _ _ _ => rfl, rfl, dumpInstrs_getElem?, dumpInstrs_length,
    fun t => ⟨?slots, dump_responses_getElem? t⟩, fun t u => ⟨slots_eq_of_dump_responses_eq, ?same⟩⟩
  case slots => rw [runInstrs_dumpInstrs]
  case same => rintro rfl; rfl

end Sys2Proof.Machine
end

section
/-! SUPPORT. Proofs about acceptance at the port (R48). -/

namespace Sys2Proof.Machine

theorem State.accepts_iff (s : State) :
    s.accepts = true ↔ s.pins.rst = false ∧ s.pins.cmdValid = true ∧ s.outputs.cmdReady = true := by
  simp [State.accepts, State.outputs, and_assoc]

theorem State.not_accepts_of_not_ready {s : State} (h : s.outputs.cmdReady = false) :
    s.accepts = false := by
  rw [← Bool.not_eq_true, State.accepts_iff, h]
  simp

theorem stepWith_of_accepts (m : Config.Impl) {s : State} (h : s.accepts = true) :
    stepWith m s = acceptEdge m (decode s.pins.cmd) s.takeInput := by
  simp [stepWith, State.accepts_not_rst h, h]

theorem stepWith_of_not_accepts (m : Config.Impl) {s : State} (hr : s.pins.rst = false)
    (ha : s.accepts = false) : stepWith m s = .next (finishEdge m (s.hold - 1) s.takeInput) := by
  simp [stepWith, hr, ha]

/-- An edge at which nothing is accepted sees of the pins only `rst`: states that differ in nothing else
than the coming edge's command signals step alike. -/
theorem stepWith_congr_of_not_accepts (m : Config.Impl) {s u : State} (hs : s.accepts = false)
    (hu : u.accepts = false) (hrst : u.pins.rst = s.pins.rst) (htake : u.takeInput = s.takeInput) :
    stepWith m u = stepWith m s := by
  cases hr : s.pins.rst with
  | true => rw [stepWith_of_rst m hr, stepWith_of_rst m (hrst.trans hr), htake]
  | false =>
    have hhold : u.hold = s.hold := by simpa using congrArg State.hold htake
    rw [stepWith_of_not_accepts m hr hs, stepWith_of_not_accepts m (hrst.trans hr) hu, htake, hhold]

/-- What stays in flight at the end of an edge is the youngest part of what was (R49). -/
theorem finishEdge_inflight_suffix (m : Config.Impl) (h : Nat) (s : State) :
    (finishEdge m h s).inflight.map Pending.rsp <:+ s.inflight.map Pending.rsp :=
  ⟨_, (popDue_responses m (aged s.inflight)).trans (aged_responses s.inflight)⟩

/-- Settles O32: acceptance is read off the pins, and an edge without it is the same whatever the command
signals are. -/
theorem acceptanceRule : Obligations.AcceptanceRule := by
  unfold Obligations.AcceptanceRule
  refine ⟨State.accepts_iff, fun m s h => stepWith_of_accepts m h, fun m s e rest c hin ha => ?cmd,
    fun m s e rest c v hin hready => ?notReady, fun m s ha hr => ?idle⟩
  case cmd =>
    apply stepWith_congr_of_not_accepts m ha
    · simpa [State.accepts, State.cmdReady, State.pins, hin] using ha
    · simp [State.pins, hin]
    · simp [State.takeInput, hin]
  case notReady =>
    apply stepWith_congr_of_not_accepts m (State.not_accepts_of_not_ready hready)
    · apply State.not_accepts_of_not_ready
      simpa [State.outputs, State.cmdReady, State.pins, hin] using hready
    · simp [State.pins, hin]
    · simp [State.takeInput, hin]
  case idle => exact ⟨_, stepWith_of_not_accepts m hr ha, rfl, finishEdge_inflight_suffix m _ s.takeInput⟩

end Sys2Proof.Machine
end

section
/-! SUPPORT. Proofs about the hash and the queries HASH, LOOKUP and READ (40_query.md). -/

namespace Sys2Proof.Machine

/-! ### The hash (R63, R64) -/

theorem hashSum_eq (p : Pixel) :
    hashSum p = 3 * p.r.toNat + 5 * p.g.toNat + 7 * p.b.toNat + 11 * p.a.toNat := rfl

/-- R63: each channel is at most 255, and the coefficients add up to 26. -/
theorem hashSum_le (p : Pixel) : hashSum p ≤ 6630 := by
  have hr : p.r.toNat < 2 ^ 8 := p.r.isLt
  have hg : p.g.toNat < 2 ^ 8 := p.g.isLt
  have hb : p.b.toNat < 2 ^ 8 := p.b.isLt
  have ha : p.a.toNat < 2 ^ 8 := p.a.isLt
  rw [hashSum_eq]
  omega

theorem slotHash_toNat (p : Pixel) : (slotHash p).toNat = hashSum p % 64 := by
  rw [slotHash, BitVec.toNat_ofNat]
  exact Nat.mod_mod ..

/-- R64: the modulus 64 is the word's own, so the slot is the low 6 bits of the exact sum. -/
theorem slotHash_eq_ofNat (p : Pixel) : slotHash p = BitVec.ofNat 6 (hashSum p) := by
  apply BitVec.eq_of_toNat_eq
  rw [slotHash_toNat, BitVec.toNat_ofNat]

/-- Wrap-around arithmetic of `n` bits gives the low `n` bits of the exact sum. -/
theorem hashSumAtWidth_eq_ofNat (n : Nat) (p : Pixel) :
    hashSumAtWidth n p = BitVec.ofNat n (hashSum p) := by
  simp only [hashSumAtWidth, hashSum, BitVec.ofNat_add, BitVec.ofNat_mul, BitVec.ofNat_toNat]

theorem setWidth_hashSumAtWidth {n : Nat} (hn : 6 ≤ n) (p : Pixel) :
    (hashSumAtWidth n p).setWidth 6 = slotHash p := by
  rw [hashSumAtWidth_eq_ofNat, BitVec.setWidth_ofNat_of_le hn, slotHash_eq_ofNat]

/-- R64: six bits are wide enough to compute the hash in. -/
theorem slotHash_eq_hashSumAtWidth (p : Pixel) : slotHash p = hashSumAtWidth 6 p := by
  rw [← setWidth_hashSumAtWidth le_rfl, BitVec.setWidth_eq]

/-- R65: the hash reads only bits 5:0 of each channel. -/
theorem slotHash_congr {p q : Pixel} (hr : p.r.extractLsb' 0 6 = q.r.extractLsb' 0 6)
    (hg : p.g.extractLsb' 0 6 = q.g.extractLsb' 0 6) (hb : p.b.extractLsb' 0 6 = q.b.extractLsb' 0 6)
    (ha : p.a.extractLsb' 0 6 = q.a.extractLsb' 0 6) : slotHash p = slotHash q := by
  rw [← BitVec.setWidth_eq_extractLsb' (by decide), ← BitVec.setWidth_eq_extractLsb' (by decide)]
    at hr hg hb ha
  simp only [slotHash_eq_hashSumAtWidth, hashSumAtWidth, hr, hg, hb, ha]

/-- The sum 6630 of the white opaque pixel leaves 38 mod 64. -/
theorem slotHash_white : slotHash ⟨255, 255, 255, 255⟩ = 38 := by decide

/-- R64: fewer than 6 bits hold no number above 31, and so not the slot 38. -/
theorem setWidth_hashSumAtWidth_white_ne {n : Nat} (hn : n < 6) :
    (hashSumAtWidth n ⟨255, 255, 255, 255⟩).setWidth 6 ≠ slotHash ⟨255, 255, 255, 255⟩ := by
  intro h
  have hwidth : (hashSumAtWidth n ⟨255, 255, 255, 255⟩).toNat < 32 :=
    (hashSumAtWidth n _).isLt.trans_le (Nat.pow_le_pow_right (by decide) (Nat.le_of_lt_succ hn))
  have hslot := congrArg BitVec.toNat h
  rw [slotHash_white, BitVec.toNat_setWidth, Nat.mod_eq_of_lt (by omega)] at hslot
  rw [hslot] at hwidth
  exact absurd hwidth (by decide)

/-- Settles O2: wrapping at `n` bits keeps the low `n` bits of the exact sum; when `n` is below 6, the slot
38 of (255,255,255,255) does not fit. -/
theorem hashSameAtEveryWidth : Obligations.HashSameAtEveryWidth := by
  unfold Obligations.HashSameAtEveryWidth
  exact ⟨slotHash_eq_ofNat, fun _ p hn => setWidth_hashSumAtWidth hn p,
    fun _ hn => ⟨_, setWidth_hashSumAtWidth_white_ne hn⟩⟩

/-- Settles O1: the slot as a number, and the sum's bound with the pixel that attains it. -/
theorem hashIsWeightedSumMod64 : Obligations.HashIsWeightedSumMod64 := by
  unfold Obligations.HashIsWeightedSumMod64
  refine ⟨slotHash_toNat, hashSum_le, ?attained, by decide⟩
  case attained => decide

/-! ### A query is one response more in flight (R69) -/

/-- R69: a quiet command leaves the state as it was, but for its own response in flight. -/
theorem exec_of_isQuiet (s : State) {i : Instr} (h : isQuiet i = true) :
    exec i s = .next { s with inflight := s.inflight ++ [⟨(transact s.cache i).rsp.pack, 0⟩] } := by
  rw [exec_eq_commit, State.commit, transact_slots_of_isQuiet s.cache h]

/-- A word is executed as the command it decodes to. -/
theorem issue_of_decode {w : CmdWord} {i : Instr} (h : decode w = i) (t : SlotArray) :
    issue t w = ((transact t i).slots, (transact t i).rsp.pack) := by
  rw [issue, h]

theorem issue_of_isQuiet {w : CmdWord} {i : Instr} (h : decode w = i) (hi : isQuiet i = true)
    (t : SlotArray) : issue t w = (t, (transact t i).rsp.pack) := by
  rw [issue_of_decode h, transact_slots_of_isQuiet t hi]

@[simp] theorem transact_hash_rsp (t : SlotArray) (p : Pixel) :
    (transact t (.hash p)).rsp = ⟨false, false, slotHash p, ⟨0, 0, 0, 0⟩⟩ := rfl

@[simp] theorem transact_lookup_rsp (t : SlotArray) (p : Pixel) :
    (transact t (.lookup p)).rsp
      = ⟨false, decide (readSlot t (slotHash p) = p), slotHash p, readSlot t (slotHash p)⟩ := rfl

/-! ### HASH (R65) -/

theorem decode_hashExample : decode 0x40000A141EFF = .hash ⟨10, 20, 30, 255⟩ := by decide

/-- Settles O15: HASH is quiet, and the hash reads bits 5:0 of each channel. -/
theorem hashResult : Obligations.HashResult := by
  unfold Obligations.HashResult
  refine ⟨fun w => decodeCommand_hash (f := .unpack w), fun p s => ?exec, slotHash_sentinel,
    slotHash_white, fun _ _ => slotHash_congr, fun t => ?vector⟩
  case exec => rw [exec_of_isQuiet s rfl, transact_hash_rsp]
  case vector =>
    rw [issue_of_isQuiet decode_hashExample rfl, transact_hash_rsp]
    rfl

/-! ### LOOKUP (R66) -/

/-- R66: where the pixel's slot holds another pixel, LOOKUP misses and shows that one. -/
theorem transact_lookup_rsp_of_ne {t : SlotArray} {p q : Pixel} (hq : readSlot t (slotHash p) = q)
    (hne : p ≠ q) : (transact t (.lookup p)).rsp = ⟨false, false, slotHash p, q⟩ := by
  rw [transact_lookup_rsp, hq, decide_eq_false hne.symm]

/-- R25, R66: on a clear array any pixel but the sentinel misses and is shown the sentinel. -/
theorem transact_lookup_rsp_clearedSlots {p : Pixel} (hp : p ≠ Config.sentinel) :
    (transact clearedSlots (.lookup p)).rsp = ⟨false, false, slotHash p, Config.sentinel⟩ :=
  transact_lookup_rsp_of_ne (readSlot_clearedSlots _) hp

theorem decode_lookupSentinelExample : decode 0x600000000000 = .lookup Config.sentinel := by decide

theorem decode_lookupExample : decode 0x60000A141EFF = .lookup ⟨10, 20, 30, 255⟩ := by decide

/-- Settles O16: LOOKUP is quiet, and it hits exactly when the slot holds the pixel, alpha included. -/
theorem lookupResult : Obligations.LookupResult := by
  unfold Obligations.LookupResult
  refine ⟨fun w => decodeCommand_lookup (f := .unpack w), fun p s => ?exec, ?sentinel,
    fun _ => transact_lookup_rsp_clearedSlots, fun t p q hne hhash hq => ?collision,
    fun t p v hv hheld => ?alpha, ?vector⟩
  case exec => rw [exec_of_isQuiet s rfl, transact_lookup_rsp]
  case sentinel =>
    rw [issue_of_isQuiet decode_lookupSentinelExample rfl, transact_lookup_rsp, readSlot_clearedSlots]
    rfl
  case collision => exact transact_lookup_rsp_of_ne (hhash ▸ hq) hne
  case alpha =>
    have hne : p ≠ { p with a := v } := fun h => hv (congrArg Pixel.a h).symm
    rw [transact_lookup_rsp_of_ne hheld hne]
  case vector =>
    rw [issue_of_isQuiet decode_lookupExample rfl, transact_lookup_rsp_clearedSlots (by decide)]
    rfl

/-! ### READ (R67) -/

/-- R67, R108: READ of a pixel's slot right after its STORE answers the pixel. -/
theorem transact_read_rsp_of_stored (t : SlotArray) (p : Pixel) :
    (transact (transact t (.store p)).slots (.read (slotHash p))).rsp = ⟨false, false, slotHash p, p⟩ := by
  rw [transact_read_rsp, transact_store_slots, readSlot_writeSlot_same]

theorem decode_storeExample : decode 0x80000A141EFF = .store ⟨10, 20, 30, 255⟩ := by decide

theorem decode_readExample : decode 0xA00900000000 = .read (slotHash ⟨10, 20, 30, 255⟩) := by decide

/-- Settles O17: READ is quiet and answers what its slot holds, whatever that is. -/
theorem readResult : Obligations.ReadResult := by
  unfold Obligations.ReadResult
  refine ⟨fun w => decodeCommand_read (f := .unpack w), fun k s => ?exec, fun k => ?cleared,
    fun t => ?vector⟩
  case exec => rw [exec_of_isQuiet s rfl, transact_read_rsp]
  case cleared => rw [transact_read_rsp, readSlot_clearedSlots]
  case vector =>
    rw [runWords_cons, runWords_cons, runWords_nil, issue_of_decode decode_storeExample,
      issue_of_isQuiet decode_readExample rfl, transact_read_rsp_of_stored, List.drop_succ_cons, List.drop_zero]
    rfl

end Sys2Proof.Machine
end

section
/-! SUPPORT. Proofs about the commands NOP, CLEAR and STORE (41_update.md). -/

namespace Sys2Proof.Machine

/-! ### NOP (R70) -/

@[simp] theorem transact_nop_rsp (t : SlotArray) : (transact t .nop).rsp = Response.zero := rfl

theorem decode_nopExample : decode 0x000000000000 = .nop := by decide

/-- Settles O13: NOP is quiet, and its response is the word 0. -/
theorem nopResult : Obligations.NopResult := by
  unfold Obligations.NopResult
  refine ⟨fun w => decodeCommand_nop (f := .unpack w), fun s => ?exec, fun t => ?vector⟩
  case exec => rw [exec_of_isQuiet s rfl, transact_nop_rsp, Response.pack_zero]
  case vector =>
    rw [issue_of_isQuiet decode_nopExample rfl, transact_nop_rsp, Response.pack_zero]

/-! ### CLEAR (R71) -/

@[simp] theorem transact_clear_rsp (t : SlotArray) : (transact t .clear).rsp = Response.zero := rfl

/-- The clear array is the only one whose every slot reads as the sentinel (R24). -/
theorem eq_clearedSlots_of_readSlot {t : SlotArray} (h : ∀ k, readSlot t k = Config.sentinel) :
    t = clearedSlots :=
  slots_ext fun k => (h k).trans (readSlot_clearedSlots k).symm

theorem decode_clearExample : decode 0x200000000000 = .clear := by decide

/-- R71: CLEAR leaves the clear array and answers 0, whatever the slots were. -/
theorem issue_clearExample (t : SlotArray) : issue t 0x200000000000 = (clearedSlots, 0) := by
  rw [issue_of_decode decode_clearExample, transact_clear_slots, transact_clear_rsp, Response.pack_zero]

/-- Settles O14: the next state is the clear array committed with the response 0. -/
theorem clearResult : Obligations.ClearResult := by
  unfold Obligations.ClearResult
  refine ⟨fun w => decodeCommand_clear (f := .unpack w),
    fun s => ⟨clearedSlots, ?exec, readSlot_clearedSlots⟩, fun t h => ?cleared, fun t => ?vector⟩
  case exec =>
    rw [exec_eq_commit, State.commit, transact_clear_slots, transact_clear_rsp, Response.pack_zero]
  case cleared => rw [issue_clearExample, eq_clearedSlots_of_readSlot h]
  case vector =>
    rw [runWords_cons, runWords_cons, runWords_cons, runWords_nil, issue_clearExample,
      issue_of_isQuiet decode_readExample rfl, transact_read_rsp, readSlot_clearedSlots,
      List.drop_succ_cons, List.drop_zero]
    rfl

/-! ### STORE (R72, R73) -/

/-- R73: STORE answers as LOOKUP does, from the slots as they were before it. -/
theorem transact_store_rsp_eq_lookup (t : SlotArray) (p : Pixel) :
    (transact t (.store p)).rsp = (transact t (.lookup p)).rsp := rfl

theorem slotHash_storeExample : slotHash ⟨10, 20, 30, 255⟩ = 9 := by decide

/-- R72: once another pixel at home in slot 0 is stored, a LOOKUP of the sentinel misses. -/
theorem transact_lookup_sentinel_misses {p : Pixel} (hp : p ≠ Config.sentinel) (hhome : slotHash p = 0)
    (t : SlotArray) :
    (transact (transact t (.store p)).slots (.lookup Config.sentinel)).rsp.hit = false := by
  rw [← Bool.not_eq_true, transact_lookup_hit_iff, slotHash_sentinel, transact_store_slots, hhome,
    readSlot_writeSlot_same]
  exact hp

/-- Settles O18: STORE is one write at the pixel's home, answered as a LOOKUP of the old slots. -/
theorem storeResult : Obligations.StoreResult := by
  unfold Obligations.StoreResult
  refine ⟨fun w => decodeCommand_store (f := .unpack w),
    fun p s => ⟨writeSlot s.cache (slotHash p) p, ?exec, readSlot_writeSlot_same .., fun _ hk =>
      readSlot_writeSlot_ne _ p hk⟩,
    fun _ _ => transact_store_of_held, fun t _ hp hhome => transact_lookup_sentinel_misses hp hhome t,
    by decide, fun t => ?sentinel, ?response, ?slot⟩
  case exec =>
    rw [exec_eq_commit, State.commit, transact_store_slots, transact_store_rsp_eq_lookup,
      transact_lookup_rsp]
  case sentinel => rw [transact_store_slots, slotHash_sentinel, readSlot_writeSlot_same]
  case response =>
    rw [issue_of_decode decode_storeExample, transact_store_rsp_eq_lookup,
      transact_lookup_rsp_clearedSlots (by decide)]
    rfl
  case slot =>
    rw [issue_of_decode decode_storeExample, transact_store_slots, slotHash_storeExample,
      readSlot_writeSlot_same]

/-- Settles O24: the LOOKUP leaves the slots that the STORE then finds, and answers what it answers. -/
theorem storeIsLookupThenWrite : Obligations.StoreIsLookupThenWrite := by
  unfold Obligations.StoreIsLookupThenWrite
  intro t p
  have hlookup : (transact t (.lookup p)).slots = t := transact_slots_of_isQuiet t rfl
  refine ⟨transact_store_rsp_eq_lookup t p, fun k => ?slots, ?pair⟩
  case slots => rw [transact_store_slots, readSlot_writeSlot]
  case pair => simp only [runInstrs_cons, runInstrs_nil, hlookup, transact_store_rsp_eq_lookup]

/-! ### A sequence of stores (R74) -/

/-- The slots after storing some pixels in order, each at its home (R74). -/
def storeAll (t : SlotArray) (ps : List Pixel) : SlotArray :=
  ps.foldl (fun t p => writeSlot t (slotHash p) p) t

@[simp] theorem storeAll_nil (t : SlotArray) : storeAll t [] = t := rfl

@[simp] theorem storeAll_cons (t : SlotArray) (p : Pixel) (ps : List Pixel) :
    storeAll t (p :: ps) = storeAll (writeSlot t (slotHash p) p) ps := rfl

theorem storeAll_concat (t : SlotArray) (ps : List Pixel) (p : Pixel) :
    storeAll t (ps ++ [p]) = writeSlot (storeAll t ps) (slotHash p) p :=
  List.foldl_concat ..

@[simp] theorem lastStored_nil (k : SlotIdx) : lastStored [] k = Config.sentinel := rfl

/-- One pixel more is the last stored at its home, and changes nothing at any other slot. -/
theorem lastStored_concat (ps : List Pixel) (p : Pixel) (k : SlotIdx) :
    lastStored (ps ++ [p]) k = if k = slotHash p then p else lastStored ps k := by
  by_cases hk : k = slotHash p
  · simp [lastStored, hk]
  · simp [lastStored, hk, Ne.symm hk]

/-- R74: from the clear array, each slot holds the last pixel stored whose home it is. -/
theorem readSlot_storeAll_clearedSlots (ps : List Pixel) (k : SlotIdx) :
    readSlot (storeAll clearedSlots ps) k = lastStored ps k := by
  induction ps using List.reverseRecOn with
  | nil => rw [storeAll_nil, readSlot_clearedSlots, lastStored_nil]
  | append_singleton ps p ih => rw [storeAll_concat, readSlot_writeSlot, lastStored_concat, ih]

@[simp] theorem storedPixels_store_cons (p : Pixel) (is : List Instr) :
    storedPixels (.store p :: is) = p :: storedPixels is := rfl

theorem storedPixels_cons_of_ne {i : Instr} (h : ∀ p, i ≠ .store p) (is : List Instr) :
    storedPixels (i :: is) = storedPixels is := by
  cases i with
  | store p => exact absurd rfl (h p)
  | _ => rfl

/-- R74: without CLEAR, the slots a sequence leaves are its stores, in order. -/
theorem runInstrs_slots_eq_storeAll {is : List Instr} (h : ∀ i ∈ is, i ≠ .clear) (t : SlotArray) :
    (runInstrs t is).1 = storeAll t (storedPixels is) := by
  induction is generalizing t with
  | nil => rfl
  | cons i is ih =>
    obtain ⟨hi, his⟩ := List.forall_mem_cons.mp h
    rw [runInstrs_cons, ih his]
    by_cases hstore : ∃ p, i = .store p
    · obtain ⟨p, rfl⟩ := hstore
      rw [transact_store_slots, storedPixels_store_cons, storeAll_cons]
    · have hne : ∀ p, i ≠ .store p := not_exists.mp hstore
      rw [transact_slots_of_ne t hi hne, storedPixels_cons_of_ne hne]

/-- R74: a CLEAR makes what came before it irrelevant to the slots. -/
theorem runInstrs_slots_append_clear_cons (t : SlotArray) (before is : List Instr) :
    (runInstrs t (before ++ .clear :: is)).1 = (runInstrs clearedSlots is).1 := by
  rw [runInstrs_append, runInstrs_cons, transact_clear_slots]

/-- Settles O25: the slots are the fold of the stores, read slot by slot from its end. -/
theorem slotsHoldTheLastStores : Obligations.SlotsHoldTheLastStores := by
  unfold Obligations.SlotsHoldTheLastStores
  refine ⟨fun is k h => ?last, runInstrs_slots_append_clear_cons,
    fun is h => runInstrs_slots_eq_storeAll h clearedSlots⟩
  case last => rw [runInstrs_slots_eq_storeAll h, readSlot_storeAll_clearedSlots]

end Sys2Proof.Machine
end

section
/-! SUPPORT. Proofs about what a client asks of the block and reads in the responses
(R40, R56, R75, R76). -/

namespace Sys2Proof

/-- R56: the fields a client reads in a response word are those the block packed. -/
@[simp] theorem Response.unpack_pack (x : Response) : Response.unpack x.pack = x := by
  obtain ⟨err, hit, slot, pix⟩ := x
  simp only [Response.unpack, Response.pack_low, Pixel.ofWord_word, Response.mk.injEq, and_true]
  refine ⟨?err, ?hit, ?slot⟩
  case err =>
    rw [Response.pack, BitVec.getLsbD_append, BitVec.getLsbD_append, BitVec.getLsbD_append]
    simp
  case hit =>
    rw [Response.pack, BitVec.getLsbD_append, BitVec.getLsbD_append, BitVec.getLsbD_append]
    simp
  case slot =>
    rw [Response.pack, BitVec.extractLsb'_append_eq_of_le (by omega)]
    exact BitVec.extractLsb'_append_eq_right

/-- An encoded command decodes to itself: its operands stand in the fields that decoding reads (R50, R54). -/
@[simp] theorem decode_encode (i : Instr) : decode (encode i) = i := by
  rw [encode, decode_pack]
  cases i <;> rfl

end Sys2Proof

namespace Sys2Proof.Machine

/-! ### One command and its response (R40, R75) -/

@[simp] theorem ask_slots (t : SlotArray) (i : Instr) : (ask t i).1 = (transact t i).slots := by
  rw [ask, issue_of_decode (decode_encode i)]

@[simp] theorem ask_reply (t : SlotArray) (i : Instr) : (ask t i).2.reply = (transact t i).rsp := by
  rw [Exchange.reply, ask, issue_of_decode (decode_encode i), Response.unpack_pack]

/-! ### The fresh start (R28, R76) -/

/-- A client's commands leave the slots that the same commands leave when run. -/
theorem askAll_slots (t : SlotArray) (is : List Instr) : (askAll t is).1 = (runInstrs t is).1 := by
  induction is generalizing t with
  | nil => rfl
  | cons i is ih => rw [askAll, ih, ask_slots, runInstrs_cons]

/-- R76: reset and CLEAR both leave every slot the sentinel, and quiet commands keep them so. -/
theorem freshen_slots (start : Start) {idle : List Instr} (h : ∀ i ∈ idle, isQuiet i = true)
    (t : SlotArray) : (freshen start idle t).1 = clearedSlots := by
  cases start with
  | reset => rw [freshen, askAll_slots, runInstrs_of_isQuiet _ h]
  | clear => rw [freshen, askAll_slots, runInstrs_cons, transact_clear_slots, runInstrs_of_isQuiet _ h]

end Sys2Proof.Machine
end

section
/-! SUPPORT. Proofs about the encoder: what each pixel leaves in the slots, the chunks it emits, and the
commands it costs (R79 to R83, R87, R92). -/

namespace Sys2Proof.Machine

/-! ### Commands and chunks among events -/

@[simp] theorem exchangesOf_nil : exchangesOf [] = [] := rfl

@[simp] theorem exchangesOf_command (x : Exchange) (l : List Event) :
    exchangesOf (.command x :: l) = x :: exchangesOf l := rfl

@[simp] theorem exchangesOf_chunk (c : Chunk) (l : List Event) :
    exchangesOf (.chunk c :: l) = exchangesOf l := rfl

@[simp] theorem exchangesOf_append (l k : List Event) :
    exchangesOf (l ++ k) = exchangesOf l ++ exchangesOf k := List.filterMap_append

@[simp] theorem exchangesOf_commands (xs : List Exchange) : exchangesOf (xs.map .command) = xs := by
  induction xs with
  | nil => rfl
  | cons x xs ih => rw [List.map_cons, exchangesOf_command, ih]

@[simp] theorem chunksOf_nil : chunksOf [] = [] := rfl

@[simp] theorem chunksOf_command (x : Exchange) (l : List Event) :
    chunksOf (.command x :: l) = chunksOf l := rfl

@[simp] theorem chunksOf_chunk (c : Chunk) (l : List Event) :
    chunksOf (.chunk c :: l) = c :: chunksOf l := rfl

@[simp] theorem chunksOf_append (l k : List Event) : chunksOf (l ++ k) = chunksOf l ++ chunksOf k :=
  List.filterMap_append

@[simp] theorem chunksOf_commands (xs : List Exchange) : chunksOf (xs.map .command) = [] := by
  induction xs with
  | nil => rfl
  | cons x xs ih => rw [List.map_cons, chunksOf_command, ih]

/-- R81: flushing a run issues no command. -/
@[simp] theorem exchangesOf_flushRun (run : Nat) : exchangesOf (flushRun run) = [] := by
  unfold flushRun
  split <;> rfl

/-! ### The three kinds of pixel -/

section
variable (f : EncoderForm) (ch : Channels) (k : CodedKind) (t : SlotArray) (run : Nat) (last : Bool)
  (p : Pixel)

/-- R80: the run grows by this pixel, or ends here and is flushed; the left-out STORE is the form's. -/
theorem encodeRepeat_eq :
    encodeRepeat f t run last p =
      ⟨⟨some p, if run + 1 == Config.maxRun || last then 0 else run + 1⟩,
        if f.storeRuns then writeSlot t (slotHash p) p else t,
        (if f.storeRuns then [.command (ask t (.store p)).2] else [])
          ++ if run + 1 == Config.maxRun || last then [.chunk (.run (run + 1))] else []⟩ := by
  simp only [encodeRepeat, ask_slots, transact_store_slots]
  split
  · rfl
  · rw [List.append_nil]

/-- R81: the Index check hits exactly when the pixel's home slot holds the pixel. -/
theorem chunkFor_lookup :
    chunkFor ch k p (ask t (.lookup p)).2
      = if readSlot t (slotHash p) = p then .index (slotHash p) else codedChunk ch k p := by
  simp only [chunkFor, ask_reply, transact_lookup_rsp, decide_eq_true_eq]

/-- R73, R82: a STORE answers the Index check as the LOOKUP before it does. -/
theorem chunkFor_store : chunkFor ch k p (ask t (.store p)).2 = chunkFor ch k p (ask t (.lookup p)).2 := by
  simp only [chunkFor, ask_reply, transact_store_rsp_eq_lookup]

/-- R81, R82: a pixel that differs from the one before ends the run, is stored and has its chunk; the forms
differ in their commands alone. -/
theorem encodeNew_eq :
    encodeNew f ch k t run p =
      ⟨⟨some p, 0⟩, writeSlot t (slotHash p) p,
        flushRun run ++ if f.single then
          [.command (ask t (.store p)).2, .chunk (chunkFor ch k p (ask t (.lookup p)).2)]
        else
          [.command (ask t (.lookup p)).2, .chunk (chunkFor ch k p (ask t (.lookup p)).2),
            .command (ask t (.store p)).2]⟩ := by
  have hlookup : (transact t (.lookup p)).slots = t := transact_slots_of_isQuiet t rfl
  simp only [encodeNew, ask_slots, hlookup, transact_store_slots, chunkFor_store]
  split <;> rfl

end

/-! ### One pixel -/

/-- What R87's induction carries: the pixel before, if any, is held at its home. -/
def Encoder.PrevHeld (e : Encoder) (t : SlotArray) : Prop :=
  ∀ q, e.prev = some q → readSlot t (slotHash q) = q

theorem Encoder.init_prevHeld (t : SlotArray) : Encoder.init.PrevHeld t :=
  fun _ h => nomatch h

/-- R79 to R81: a pixel is the first, or equals the one before, or differs from it. -/
theorem Encoder.prev_cases (e : Encoder) (p : Pixel) :
    e.prev = none ∨ e.prev = some p ∨ ∃ q, e.prev = some q ∧ p ≠ q := by
  cases hprev : e.prev with
  | none => exact .inl rfl
  | some q =>
    by_cases hp : p = q
    · exact .inr (.inl (congrArg some hp.symm))
    · exact .inr (.inr ⟨q, rfl, hp⟩)

section
variable {f g : EncoderForm} {ch : Channels} {pick : Pixel → Pixel → CodedKind} {t : SlotArray}
  {e : Encoder} {last : Bool} {p q : Pixel}

theorem encodePixel_first (h : e.prev = none) :
    encodePixel f ch pick t e last p = encodeFirst ch t p := by
  simp only [encodePixel, h]

theorem encodePixel_repeat (h : e.prev = some p) :
    encodePixel f ch pick t e last p = encodeRepeat f t e.run last p := by
  simp only [encodePixel, h, if_pos]

theorem encodePixel_new (h : e.prev = some q) (hne : p ≠ q) :
    encodePixel f ch pick t e last p = encodeNew f ch (pick q p) t e.run p := by
  simp only [encodePixel, h, if_neg hne]

/-- R79 to R81: whatever it was, the pixel becomes the previous one. -/
theorem encodePixel_prev : (encodePixel f ch pick t e last p).state.prev = some p := by
  obtain h | h | ⟨q, h, hne⟩ := e.prev_cases p
  · rw [encodePixel_first h, encodeFirst]
  · rw [encodePixel_repeat h, encodeRepeat_eq]
  · rw [encodePixel_new h hne, encodeNew_eq]

/-- R87: after a pixel the slots are as if it had been stored. A run pixel is the one before it, which its
home holds already, so that its STORE, issued or not, changes nothing. -/
theorem encodePixel_slots (hheld : e.PrevHeld t) :
    (encodePixel f ch pick t e last p).slots = writeSlot t (slotHash p) p := by
  obtain h | h | ⟨q, h, hne⟩ := e.prev_cases p
  · rw [encodePixel_first h, encodeFirst, ask_slots, transact_store_slots]
  · have hsame : writeSlot t (slotHash p) p = t := transact_store_slots_of_held (hheld p h)
    rw [encodePixel_repeat h, encodeRepeat_eq, hsame, ite_self]
  · rw [encodePixel_new h hne, encodeNew_eq]

/-- R87: after a pixel its home holds it. -/
theorem encodePixel_prevHeld (hheld : e.PrevHeld t) :
    (encodePixel f ch pick t e last p).state.PrevHeld (encodePixel f ch pick t e last p).slots := by
  intro q hq
  obtain rfl : p = q := Option.some.inj (encodePixel_prev.symm.trans hq)
  rw [encodePixel_slots hheld, readSlot_writeSlot_same]

/-- The form is a matter of commands: it is not seen in what the encoder keeps for the next pixel. -/
theorem encodePixel_state_congr :
    (encodePixel f ch pick t e last p).state = (encodePixel g ch pick t e last p).state := by
  obtain h | h | ⟨q, h, hne⟩ := e.prev_cases p
  · rw [encodePixel_first h, encodePixel_first h]
  · rw [encodePixel_repeat h, encodePixel_repeat h, encodeRepeat_eq, encodeRepeat_eq]
  · rw [encodePixel_new h hne, encodePixel_new h hne, encodeNew_eq, encodeNew_eq]

/-- R82, R89: nor is the form seen in a run pixel's chunk. -/
theorem encodeRepeat_chunks (run : Nat) :
    chunksOf (encodeRepeat f t run last p).events
      = if run + 1 == Config.maxRun || last then [.run (run + 1)] else [] := by
  rw [encodeRepeat_eq, chunksOf_append, apply_ite chunksOf, apply_ite chunksOf, chunksOf_command,
    chunksOf_chunk, chunksOf_nil, ite_self, List.nil_append]

/-- R81, R82: the chunks of a pixel that differs from the one before, in any form. -/
theorem encodeNew_chunks (k : CodedKind) (run : Nat) :
    chunksOf (encodeNew f ch k t run p).events
      = chunksOf (flushRun run)
        ++ [if readSlot t (slotHash p) = p then .index (slotHash p) else codedChunk ch k p] := by
  rw [encodeNew_eq, chunksOf_append, apply_ite chunksOf, chunkFor_lookup]
  simp only [chunksOf_command, chunksOf_chunk, chunksOf_nil, ite_self]

/-- R82, R89: the chunks of one pixel, on the same slots, are the same in every form. -/
theorem encodePixel_chunks_congr :
    chunksOf (encodePixel f ch pick t e last p).events = chunksOf (encodePixel g ch pick t e last p).events := by
  obtain h | h | ⟨q, h, hne⟩ := e.prev_cases p
  · rw [encodePixel_first h, encodePixel_first h]
  · rw [encodePixel_repeat h, encodePixel_repeat h, encodeRepeat_chunks, encodeRepeat_chunks]
  · rw [encodePixel_new h hne, encodePixel_new h hne, encodeNew_chunks, encodeNew_chunks]

end

/-! ### All pixels (R78, R82, R87) -/

section
variable {f g : EncoderForm} {ch : Channels} {pick : Pixel → Pixel → CodedKind} {t : SlotArray}
  {e : Encoder}

/-- R87: the slots after each pixel are as if every pixel so far had been stored. -/
theorem encodeFrom_history (hheld : e.PrevHeld t) (ps : List Pixel) :
    (encodeFrom f ch pick t e ps).history = storeHistory t ps := by
  induction ps generalizing t e with
  | nil => rfl
  | cons p ps ih =>
    simp only [encodeFrom, storeHistory]
    rw [ih (encodePixel_prevHeld hheld), encodePixel_slots hheld]

theorem encodeFrom_slots (hheld : e.PrevHeld t) (ps : List Pixel) :
    (encodeFrom f ch pick t e ps).slots = storeAll t ps := by
  induction ps generalizing t e with
  | nil => rfl
  | cons p ps ih =>
    simp only [encodeFrom, storeAll_cons]
    rw [ih (encodePixel_prevHeld hheld), encodePixel_slots hheld]

/-- R82, R89: every form emits the same chunks, since every form leaves the same slots after each pixel. -/
theorem encodeFrom_chunks_congr (hheld : e.PrevHeld t) (ps : List Pixel) :
    chunksOf (encodeFrom f ch pick t e ps).events = chunksOf (encodeFrom g ch pick t e ps).events := by
  induction ps generalizing t e with
  | nil => rfl
  | cons p ps ih =>
    have hslots : (encodePixel f ch pick t e ps.isEmpty p).slots
        = (encodePixel g ch pick t e ps.isEmpty p).slots :=
      (encodePixel_slots hheld).trans (encodePixel_slots hheld).symm
    simp only [encodeFrom, chunksOf_append]
    rw [encodePixel_chunks_congr (f := f) (g := g), ih (encodePixel_prevHeld hheld),
      encodePixel_state_congr (f := f) (g := g), hslots]

end

section
variable (start : Start) (idle : List Instr) (f g : EncoderForm) (ch : Channels)
  (pick : Pixel → Pixel → CodedKind) (t : SlotArray) (ps : List Pixel)

theorem encodeStream_history :
    (encodeStream start idle f ch pick t ps).history
      = storeHistory (freshen start idle t).1 (ps.map (operandPixel ch)) :=
  encodeFrom_history (Encoder.init_prevHeld _) _

theorem encodeStream_slots :
    (encodeStream start idle f ch pick t ps).slots
      = storeAll (freshen start idle t).1 (ps.map (operandPixel ch)) :=
  encodeFrom_slots (Encoder.init_prevHeld _) _

theorem encodeStream_chunks :
    chunksOf (encodeStream start idle f ch pick t ps).events
      = chunksOf (encodeFrom f ch pick (freshen start idle t).1 Encoder.init
          (ps.map (operandPixel ch))).events := by
  rw [encodeStream, chunksOf_append, chunksOf_commands, List.nil_append]

theorem encodeStream_exchanges :
    exchangesOf (encodeStream start idle f ch pick t ps).events
      = (freshen start idle t).2 ++ exchangesOf (encodeFrom f ch pick (freshen start idle t).1 Encoder.init
          (ps.map (operandPixel ch))).events := by
  rw [encodeStream, exchangesOf_append, exchangesOf_commands]

end

/-- Settles O42: the stream's slots are its pixels stored in order from the clear array. -/
theorem encoderSlotsDependOnlyOnPixels : Obligations.EncoderSlotsDependOnlyOnPixels := by
  unfold Obligations.EncoderSlotsDependOnlyOnPixels
  intro start idle f ch pick t ps hidle
  refine ⟨?history, fun k => ?slots⟩
  case history => rw [encodeStream_history, freshen_slots start hidle]
  case slots => rw [encodeStream_slots, freshen_slots start hidle, readSlot_storeAll_clearedSlots]

/-- Settles O44: no form is seen in the chunks, nor in the slots after each pixel. -/
theorem singleStoreEncoderIsTheSame : Obligations.SingleStoreEncoderIsTheSame := by
  unfold Obligations.SingleStoreEncoderIsTheSame
  intro start idle storeRuns ch pick t ps
  refine ⟨?chunks, ?history⟩
  case chunks =>
    rw [encodeStream_chunks, encodeStream_chunks]
    exact encodeFrom_chunks_congr (Encoder.init_prevHeld _) _
  case history => rw [encodeStream_history, encodeStream_history]

/-! ### How many commands (R92) -/

/-- R92: one STORE in the single-command form, or LOOKUP and STORE. -/
theorem encodeNew_exchanges_length (f : EncoderForm) (ch : Channels) (k : CodedKind) (t : SlotArray)
    (run : Nat) (p : Pixel) :
    (exchangesOf (encodeNew f ch k t run p).events).length = if f.single then 1 else 2 := by
  rw [encodeNew_eq, exchangesOf_append, exchangesOf_flushRun, List.nil_append]
  split <;> simp

/-- R80: a run pixel costs no command where the left-out stores are not issued. -/
theorem encodeRepeat_exchanges {f : EncoderForm} (hf : f.storeRuns = false) (t : SlotArray) (run : Nat)
    (last : Bool) (p : Pixel) : exchangesOf (encodeRepeat f t run last p).events = [] := by
  rw [encodeRepeat_eq, hf, if_neg Bool.false_ne_true, if_neg Bool.false_ne_true, List.nil_append]
  split <;> simp

section
variable (single : Bool) (ch : Channels) (pick : Pixel → Pixel → CodedKind) (t : SlotArray) (e : Encoder)

theorem encodePixel_exchanges_length (last : Bool) (p : Pixel) :
    (exchangesOf (encodePixel ⟨single, false⟩ ch pick t e last p).events).length
      = if e.prev = none then 1 else if e.prev = some p then 0 else if single then 1 else 2 := by
  obtain h | h | ⟨q, h, hne⟩ := e.prev_cases p
  · rw [encodePixel_first h, if_pos h, encodeFirst, exchangesOf_chunk, exchangesOf_command, exchangesOf_nil,
      List.length_singleton]
  · rw [encodePixel_repeat h, encodeRepeat_exchanges rfl, h, if_neg (Option.some_ne_none p), if_pos rfl,
      List.length_nil]
  · have hq : some q ≠ some p := fun heq => hne (Option.some.inj heq).symm
    rw [encodePixel_new h hne, encodeNew_exchanges_length, h, if_neg (Option.some_ne_none q), if_neg hq]

theorem encodePixel_exchanges_length_le (last : Bool) (p : Pixel) :
    (exchangesOf (encodePixel ⟨single, false⟩ ch pick t e last p).events).length
      ≤ if single then 1 else 2 := by
  rw [encodePixel_exchanges_length]
  split_ifs <;> omega

theorem encodeFrom_exchanges_length_le (ps : List Pixel) :
    (exchangesOf (encodeFrom ⟨single, false⟩ ch pick t e ps).events).length
      ≤ (if single then 1 else 2) * ps.length := by
  induction ps generalizing t e with
  | nil => exact Nat.zero_le _
  | cons p ps ih =>
    simp only [encodeFrom, exchangesOf_append, List.length_append, List.length_cons, Nat.mul_succ]
    rw [Nat.add_comm]
    exact Nat.add_le_add (ih ..) (encodePixel_exchanges_length_le ..)

end

end Sys2Proof.Machine
end

section
/-! SUPPORT. Proofs about the decoder: the commands its chunks cost, and Index chunks to slots whose content
has another home (R84 to R86, R91, R92). -/

namespace Sys2Proof.Machine

/-! ### How many commands (R92) -/

/-- R84 to R86: a stored or read pixel costs one command, and a run none. -/
theorem decodeChunk_exchanges_length_le (t : SlotArray) (prev : Pixel) (c : Chunk) :
    (decodeChunk false t prev c).exchanges.length ≤ (decodeChunk false t prev c).out.length := by
  cases c with
  | run n => exact Nat.zero_le _
  | _ => exact Nat.le_refl 1

theorem decodeFrom_exchanges_length_le (t : SlotArray) (prev : Pixel) (cs : List Chunk) :
    (decodeFrom false t prev cs).exchanges.length ≤ (decodeFrom false t prev cs).out.length := by
  induction cs generalizing t prev with
  | nil => exact Nat.le_refl 0
  | cons c cs ih =>
    simp only [decodeFrom, List.length_append]
    exact Nat.add_le_add (decodeChunk_exchanges_length_le t prev c) (ih ..)

/-- Settles O48: the commands of one pixel, summed over the stream, after the one CLEAR. -/
theorem commandCounts : Obligations.CommandCounts := by
  unfold Obligations.CommandCounts
  refine ⟨encodePixel_exchanges_length, fun single ch pick t ps => ?encoder, fun init t cs => ?decoder⟩
  case encoder =>
    have hclear : (freshen .clear [] t).2.length = 1 := rfl
    have hpixels := encodeFrom_exchanges_length_le single ch pick (freshen .clear [] t).1 Encoder.init
      (ps.map (operandPixel ch))
    rw [encodeStream_exchanges, List.length_append, hclear, Nat.add_comm]
    rw [List.length_map, ite_mul, Nat.one_mul] at hpixels
    exact Nat.succ_le_succ hpixels
  case decoder =>
    rw [decodeStream, List.length_append, Nat.add_comm]
    exact Nat.succ_le_succ (decodeFrom_exchanges_length_le ..)

/-! ### Index chunks (R85, R91) -/

/-- R85: an Index chunk puts out what its slot holds and leaves the slots, by one READ. -/
theorem decodeIndex_eq (t : SlotArray) (k : SlotIdx) :
    decodeIndex t k = ⟨readSlot t k, t, [readSlot t k], [(ask t (.read k)).2], [t]⟩ := by
  have hread : (transact t (.read k)).slots = t := transact_slots_of_isQuiet t rfl
  simp only [decodeIndex, ask_reply, ask_slots, hread, transact_read_rsp]

/-- R91: a decoder that also stored the pixel would write it at its home, not at the slot it read. -/
theorem decodeIndexStoring_slots (t : SlotArray) (k : SlotIdx) :
    (decodeIndexStoring t k).slots = writeSlot t (slotHash (readSlot t k)) (readSlot t k) := by
  have hread : (transact t (.read k)).slots = t := transact_slots_of_isQuiet t rfl
  simp only [decodeIndexStoring, ask_reply, ask_slots, hread, transact_read_rsp, transact_store_slots]

theorem decodeIndexStoring_out (t : SlotArray) (k : SlotIdx) :
    (decodeIndexStoring t k).out = [readSlot t k] := by
  simp only [decodeIndexStoring, ask_reply, transact_read_rsp]

/-- R19, R91: only the sentinel stands away from its home, and its home is slot 0. -/
theorem SlotsHome.sentinel_of_off_home {t : SlotArray} {k : SlotIdx} (ht : SlotsHome t)
    (hoff : slotHash (readSlot t k) ≠ k) : k ≠ 0 ∧ readSlot t k = Config.sentinel := by
  have hheld : readSlot t k = Config.sentinel := (ht k).resolve_right hoff
  rw [hheld, slotHash_sentinel] at hoff
  exact ⟨hoff.symm, hheld⟩

theorem decodeFrom_two_index_out (t : SlotArray) (prev : Pixel) (j k : SlotIdx) :
    (decodeFrom false t prev [.index j, .index k]).out = [readSlot t j, readSlot t k] := by
  simp only [decodeFrom, decodeChunk, Bool.false_eq_true, if_false, decodeIndex_eq, List.append_nil,
    List.singleton_append]

theorem decodeFrom_storing_two_index_out (t : SlotArray) (prev : Pixel) (j k : SlotIdx) :
    (decodeFrom true t prev [.index j, .index k]).out
      = [readSlot t j, readSlot (decodeIndexStoring t j).slots k] := by
  simp only [decodeFrom, decodeChunk, if_true, decodeIndexStoring_out, List.append_nil,
    List.singleton_append]

/-- R91: the sentinel that a storing decoder puts in slot 0 shows as soon as slot 0 is read, if another
pixel was there. -/
theorem decodeFrom_storing_out_ne {t : SlotArray} {k : SlotIdx} (hk : readSlot t k = Config.sentinel)
    (hzero : readSlot t 0 ≠ Config.sentinel) (prev : Pixel) :
    (decodeFrom true t prev [.index k, .index 0]).out ≠ (decodeFrom false t prev [.index k, .index 0]).out := by
  rw [decodeFrom_storing_two_index_out, decodeFrom_two_index_out, decodeIndexStoring_slots, hk,
    slotHash_sentinel, readSlot_writeSlot_same]
  intro heq
  have hsecond : [Config.sentinel] = [readSlot t 0] := List.tail_eq_of_cons_eq heq
  exact hzero (List.head_eq_of_cons_eq hsecond).symm

/-- A pixel other than the sentinel that shares its home, slot 0. -/
def slotZeroPixel : Pixel := ⟨64, 0, 0, 0⟩

theorem slotHash_slotZeroPixel : slotHash slotZeroPixel = 0 := by decide

theorem slotZeroPixel_ne_sentinel : slotZeroPixel ≠ Config.sentinel := by decide

/-- Settles O47: off home a slot holds the sentinel, which a READ puts out and a STORE would write to slot 0;
with another pixel in slot 0, read next, the two decoders differ. -/
theorem offHomeIndexReadsTheSentinel : Obligations.OffHomeIndexReadsTheSentinel := by
  unfold Obligations.OffHomeIndexReadsTheSentinel
  refine ⟨fun t k ht hoff => ?decoder,
    writeSlot clearedSlots (slotHash slotZeroPixel) slotZeroPixel, 1, Config.sentinel,
    slotsHome_writeSlot slotsHome_clearedSlots _, ?differ⟩
  case decoder =>
    obtain ⟨hne, hheld⟩ := ht.sentinel_of_off_home hoff
    rw [decodeIndexStoring_slots, decodeIndex_eq, hheld, slotHash_sentinel]
    exact ⟨hne, rfl, rfl, rfl, rfl, rfl, rfl⟩
  case differ =>
    rw [slotHash_slotZeroPixel]
    have hone : readSlot (writeSlot clearedSlots 0 slotZeroPixel) 1 = Config.sentinel := by
      rw [readSlot_writeSlot_ne _ _ (by decide), readSlot_clearedSlots]
    refine ⟨?offHome, decodeFrom_storing_out_ne hone ?slotZero _⟩
    case offHome =>
      rw [hone, slotHash_sentinel]
      decide
    case slotZero =>
      rw [readSlot_writeSlot_same]
      exact slotZeroPixel_ne_sentinel

end Sys2Proof.Machine
end

section
/-! SUPPORT. Proofs about the error response: it changes no slot and only the reserved class gives it
(R93, R95, R99). -/

namespace Sys2Proof

/-- R56: bit 39 of a response word is the error flag. -/
theorem Response.pack_getLsbD_err (x : Response) : x.pack.getLsbD 39 = x.err :=
  congrArg Response.err (Response.unpack_pack x)

end Sys2Proof

namespace Sys2Proof.Machine

/-- R93: a reserved command keeps the slots and answers the error flag with every other field zero. -/
theorem transact_of_isReserved (t : SlotArray) {i : Instr} (h : isReserved i = true) :
    transact t i = ⟨t, { Response.zero with err := true }⟩ := by
  cases i with
  | reserved110 | reserved111 => rfl
  | nop | clear | hash | lookup | store | read => exact nomatch h

/-- R93: a reserved command leaves the state as it was, but for the error response in flight. -/
theorem exec_of_isReserved (s : State) {i : Instr} (h : isReserved i = true) :
    exec i s = .next { s with inflight := s.inflight ++ [⟨0x8000000000, 0⟩] } := by
  rw [exec_eq_commit, State.commit, transact_of_isReserved s.cache h, Response.pack_err]

/-- R93, R95: the error bit of a word's response tells the reserved opcodes from the other six. -/
theorem issue_err_iff (t : SlotArray) (w : CmdWord) :
    (issue t w).2.getLsbD 39 = true ↔ w.extractLsb' 45 3 = 0b110 ∨ w.extractLsb' 45 3 = 0b111 := by
  have hop : opcode (decode w) = w.extractLsb' 45 3 := opcode_decodeCommand (.unpack w)
  rw [issue, Response.pack_getLsbD_err, transact_rsp_err, isReserved_iff_opcode, hop]

/-- A command that keeps the slots it meets adds its own response to a sequence and is otherwise not seen
(R39). -/
theorem runInstrs_append_cons_of_slots_eq (t : SlotArray) (is js : List Instr) {i : Instr}
    (h : (transact (runInstrs t is).1 i).slots = (runInstrs t is).1) :
    runInstrs t (is ++ i :: js) =
      ((runInstrs t (is ++ js)).1,
        (runInstrs t is).2 ++ (transact (runInstrs t is).1 i).rsp :: (runInstrs (runInstrs t is).1 js).2) := by
  rw [runInstrs_append, runInstrs_append, runInstrs_cons, h]

/-- A response stands where its command does: taking out the one between two parts leaves the
two parts' responses (R49). -/
theorem eraseIdx_responses (t : SlotArray) (is : List Instr) (x : Response) (xs : List Response) :
    ((runInstrs t is).2 ++ x :: xs).eraseIdx is.length = (runInstrs t is).2 ++ xs := by
  rw [List.eraseIdx_append_of_length_le (runInstrs_length t is).le, runInstrs_length, Nat.sub_self,
    List.eraseIdx_cons_zero]

/-- Settles O21: a reserved command keeps the slots, so what follows it runs as if it were not there. -/
theorem errorLeavesNoTrace : Obligations.ErrorLeavesNoTrace := by
  unfold Obligations.ErrorLeavesNoTrace
  intro t i is js hi
  have hkeep : (transact (runInstrs t is).1 i).slots = (runInstrs t is).1 := by
    rw [transact_of_isReserved _ hi]
  rw [runInstrs_append_cons_of_slots_eq t is js hkeep]
  refine ⟨rfl, ?responses⟩
  case responses => rw [eraseIdx_responses, runInstrs_append]

/-- Settles O19: both reserved opcodes are of the class whose transaction is the error response. -/
theorem reservedOpcodeResult : Obligations.ReservedOpcodeResult := by
  unfold Obligations.ReservedOpcodeResult
  exact ⟨fun w => decodeCommand_reserved110 (f := .unpack w), fun w => decodeCommand_reserved111 (f := .unpack w),
    fun s => exec_of_isReserved s rfl, fun s => exec_of_isReserved s rfl, issue_err_iff⟩

/-- Settles O20: the error flag is that of the class, and every command commits its transaction. -/
theorem noOtherCommandFails : Obligations.NoOtherCommandFails := by
  unfold Obligations.NoOtherCommandFails
  exact ⟨transact_rsp_err, fun i s => ⟨s.commit (transact s.cache i), exec_eq_commit i s⟩⟩

end Sys2Proof.Machine
end

section
/-! SUPPORT. Proofs about timing: which words are accepted is all that slots and responses depend on (R112),
and after reset or CLEAR the block is clear and ready within `CLEAR_CYCLES` (R105, R109). -/

namespace Sys2Proof.Machine

/-- Settles O39: the fold of the accepted words gives the slots and the responses, and no number of an
implementation stands in it. -/
theorem timingNeverChangesResponses : Obligations.TimingNeverChangesResponses := by
  unfold Obligations.TimingNeverChangesResponses
  intro m₁ m₂ n₁ n₂ s₁ s₂ h₁ h₂ hcache hdue haccepted
  obtain ⟨hslots₁, hresponses₁⟩ := portRefinesTheFold m₁ n₁ s₁ h₁
  obtain ⟨hslots₂, hresponses₂⟩ := portRefinesTheFold m₂ n₂ s₂ h₂
  rw [hslots₁, hslots₂, hresponses₁, hresponses₂, hcache, hdue, haccepted]
  exact ⟨rfl, rfl⟩

/-! ### The edge that clears (R104, R109) -/

theorem holdAfter_clear_le (m : Config.Impl) (n : Nat) : holdAfter m .clear n ≤ m.clearCycles := by
  rw [holdAfter, if_pos rfl]
  exact Nat.min_le_right ..

theorem acceptEdge_eq (m : Config.Impl) (i : Instr) (s : State) :
    acceptEdge m i s = .next (finishEdge m (holdAfter m i s.edges) (s.commit (transact s.cache i))) := by
  rw [acceptEdge, exec_eq_commit]

/-- R105, R109: reset and an accepted CLEAR clear the slots and bound the wait that follows. -/
theorem stepWith_of_rst_or_clear {m : Config.Impl} {s t : State}
    (h : s.pins.rst = true ∨ (s.accepts = true ∧ decode s.pins.cmd = .clear))
    (hstep : stepWith m s = .next t) : t.cache = clearedSlots ∧ t.hold ≤ m.clearCycles := by
  obtain hrst | ⟨haccepts, hclear⟩ := h
  · rw [stepWith_of_rst m hrst] at hstep
    obtain rfl := Host.Outcome.next.inj hstep
    exact ⟨resetEdge_cache _ m, resetEdge_hold_le m _⟩
  · rw [stepWith_of_accepts m haccepts, hclear, acceptEdge_eq] at hstep
    obtain rfl := Host.Outcome.next.inj hstep
    exact ⟨transact_clear_slots s.cache, holdAfter_clear_le m s.edges⟩

/-! ### Edges at which nothing is accepted (R48, R105) -/

theorem State.not_accepts_of_hold {s : State} {n : Nat} (h : s.hold = n + 1) : s.accepts = false :=
  State.not_accepts_of_not_ready (by simp [State.outputs, State.cmdReady, h])

/-- R31, R105: `hold` counts down the edges without reset, and until it is 0 nothing is accepted. -/
theorem portTrace_of_hold (m : Config.Impl) {n : Nat} {s : State} (hn : s.hold = n) (h : s.NoReset n) :
    (portTrace m n s).accepted = [] ∧ (portTrace m n s).final.hold = 0 := by
  induction n generalizing s with
  | zero => exact ⟨rfl, hn⟩
  | succ n ih =>
    have haccepts : s.accepts = false := State.not_accepts_of_hold hn
    have hstep := stepWith_of_not_accepts m h.pins_rst haccepts
    have hhold : (finishEdge m (s.hold - 1) s.takeInput).hold = n := by
      rw [finishEdge_hold, hn, Nat.add_sub_cancel]
    rw [portTrace_succ hstep, State.acceptedWord_of_not_accepts haccepts]
    exact ih hhold (h.of_tail rfl)

/-- R39: over edges without reset the slots are the fold of the accepted words, so with none they stay. -/
theorem portTrace_cache_of_accepted_nil {m : Config.Impl} {n : Nat} {s : State} (h : s.NoReset n)
    (haccepted : (portTrace m n s).accepted = []) : (portTrace m n s).final.cache = s.cache := by
  obtain ⟨hslots, -⟩ := portRefinesTheFold m n s h
  rw [hslots, haccepted, runWords_nil]

/-- Settles O40: the clearing edge bounds `hold`, which counts down with nothing accepted, and the slots
wait unchanged for the first command accepted. -/
theorem readyWithinClearCycles : Obligations.ReadyWithinClearCycles := by
  unfold Obligations.ReadyWithinClearCycles
  refine ⟨fun m s t h hstep => ?clears, fun m s h => ?held,
    fun m n s h haccepted => portTrace_cache_of_accepted_nil h haccepted,
    fun m n s t h hstep ht haccepted k => ?first⟩
  case clears =>
    obtain ⟨hcache, hhold⟩ := stepWith_of_rst_or_clear h hstep
    exact ⟨fun k => by rw [hcache, readSlot_clearedSlots], hhold⟩
  case held =>
    obtain ⟨haccepted, hready⟩ := portTrace_of_hold m rfl h
    exact ⟨haccepted, hready, portTrace_cache_of_accepted_nil h haccepted⟩
  case first =>
    obtain ⟨hcache, -⟩ := stepWith_of_rst_or_clear h hstep
    rw [portTrace_cache_of_accepted_nil ht haccepted, hcache, readSlot_clearedSlots]

end Sys2Proof.Machine
end

section
/-! SUPPORT. Proofs about words both ways: what an encoded command unpacks to, the response word as a number,
and the words the assembler places (30_encoding.md). -/

namespace Sys2Proof

/-! ### Encode and decode (R52 to R54, R61) -/

/-- Settles O6: the decoder reads each operand from the field the encoder put it in. -/
theorem decodeOfEncodeIsTheCommand : Obligations.DecodeOfEncodeIsTheCommand :=
  decode_encode

/-- Settles O10: one word written out for each row of the opcode table, decoded. -/
theorem sampleWordsDecode : Obligations.SampleWordsDecode := by
  unfold Obligations.SampleWordsDecode
  decide

@[simp] theorem Command.unpack_encode (i : Instr) :
    Command.unpack (encode i) = ⟨opcode i, 0, idxField i, pixField i⟩ :=
  Command.unpack_pack _

/-- R54, R61: of every command, the fields it ignores are written as zero. -/
theorem ignoredFieldsZero (i : Instr) : Laws.IgnoredFieldsZero.Statement i := by
  cases i with
  | nop => exact Laws.IgnoredFieldsZero.nop
  | clear => exact Laws.IgnoredFieldsZero.clear
  | hash p => exact Laws.IgnoredFieldsZero.hash p
  | lookup p => exact Laws.IgnoredFieldsZero.lookup p
  | store p => exact Laws.IgnoredFieldsZero.store p
  | read k => exact Laws.IgnoredFieldsZero.read k
  | reserved110 => exact Laws.IgnoredFieldsZero.reserved110
  | reserved111 => exact Laws.IgnoredFieldsZero.reserved111

theorem idxField_decodeCommand (f : Command) :
    idxField (decodeCommand f) = if f.op = 5 then f.idx else 0 := by
  obtain ⟨hidx, -⟩ := ignoredFieldsZero (decodeCommand f)
  rw [opcode_decodeCommand] at hidx
  split
  · next h => rw [decodeCommand_read h, idxField]
  · next h => exact hidx h

theorem pixField_decodeCommand (f : Command) :
    pixField (decodeCommand f) = if f.op = 2 ∨ f.op = 3 ∨ f.op = 4 then f.pix else ⟨0, 0, 0, 0⟩ := by
  obtain ⟨-, hpix⟩ := ignoredFieldsZero (decodeCommand f)
  rw [opcode_decodeCommand] at hpix
  split
  · next h =>
    rcases h with h | h | h
    · rw [decodeCommand_hash h, pixField]
    · rw [decodeCommand_lookup h, pixField]
    · rw [decodeCommand_store h, pixField]
  · next h =>
    obtain ⟨hhash, hlookup, hstore⟩ : f.op ≠ 2 ∧ f.op ≠ 3 ∧ f.op ≠ 4 := by simpa only [not_or] using h
    exact hpix hhash hlookup hstore

/-- Settles O7: field by field, what the encoder writes for a decoded word. -/
theorem encodeOfDecodeZeroesIgnoredFields : Obligations.EncodeOfDecodeZeroesIgnoredFields := by
  unfold Obligations.EncodeOfDecodeZeroesIgnoredFields
  intro w
  rw [Command.unpack_encode, decode, opcode_decodeCommand, idxField_decodeCommand, pixField_decodeCommand]

/-! ### The response word (R56) -/

theorem Response.pack_toNat (x : Response) :
    x.pack.toNat = x.err.toNat * 2 ^ 39 + x.hit.toNat * 2 ^ 38 + x.slot.toNat * 2 ^ 32 + x.pix.word.toNat := by
  simp only [Response.pack, toNat_append_eq_mul_add, BitVec.toNat_ofBool]
  ring

/-- One bit of a word, as a word of one bit. -/
theorem ofBool_getLsbD {n : Nat} (w : BitVec n) (k : Nat) :
    BitVec.ofBool (w.getLsbD k) = w.extractLsb' k 1 := by
  ext i hi
  obtain rfl : i = 0 := by omega
  simp

@[simp] theorem Response.pack_unpack (w : RspWord) : (Response.unpack w).pack = w := by
  simp only [Response.pack, Response.unpack, Pixel.word_ofWord, ofBool_getLsbD]
  rw [BitVec.extractLsb'_append_extractLsb'_eq_extractLsb' (by omega),
    BitVec.extractLsb'_append_extractLsb'_eq_extractLsb' (by omega),
    BitVec.extractLsb'_append_extractLsb'_eq_extractLsb' (by omega)]
  exact BitVec.extractLsb'_eq_self

/-- Settles O11: the response word is a concatenation, read as a number and field by field. -/
theorem responseWordIsItsFields : Obligations.ResponseWordIsItsFields := by
  unfold Obligations.ResponseWordIsItsFields
  exact ⟨Response.pack_toNat, Response.unpack_pack, Response.pack_unpack⟩

/-! ### The assembler's operands (R61) -/

theorem encode_toNat (i : Instr) :
    (encode i).toNat = (opcode i).toNat * 2 ^ 45 + (idxField i).toNat * 2 ^ 32 + (pixField i).word.toNat := by
  simp only [encode, Command.pack_toNat, Pixel.word_toNat, BitVec.ofNat_eq_ofNat, BitVec.toNat_zero]
  omega

theorem channelsOk_iff (r g b a : Nat) :
    channelsOk r g b a = true ↔ r ≤ 255 ∧ g ≤ 255 ∧ b ≤ 255 ∧ a ≤ 255 := by
  simp only [channelsOk, Bool.and_eq_true, decide_eq_true_eq, and_assoc]

theorem channelsOk_eq_false {r g b a : Nat} (h : 255 < r ∨ 255 < g ∨ 255 < b ∨ 255 < a) :
    channelsOk r g b a = false := by
  rw [← Bool.not_eq_true, channelsOk_iff]
  omega

end Sys2Proof

namespace Sys2Proof.Machine

theorem assemble_of_wf {x : Source} (h : x.wf = true) : assemble x = .ok (sourceWords x) :=
  if_pos h

theorem assemble_of_not_wf {x : Source} (h : x.wf = false) : assemble x = .error (rangeError x) :=
  if_neg (by simp [h])

/-- Channels within range lose nothing when they are put into bytes. -/
theorem pixelOfNats_word_toNat {r g b a : Nat} (h : channelsOk r g b a = true) :
    (pixelOfNats r g b a).word.toNat = r * 2 ^ 24 + g * 2 ^ 16 + b * 2 ^ 8 + a := by
  obtain ⟨hr, hg, hb, ha⟩ := (channelsOk_iff r g b a).mp h
  simp only [Pixel.word_toNat, pixelOfNats, BitVec.toNat_ofNat]
  rw [Nat.mod_eq_of_lt (by omega), Nat.mod_eq_of_lt (by omega), Nat.mod_eq_of_lt (by omega),
    Nat.mod_eq_of_lt (by omega)]

/-- R50, R61: the word of a command with a pixel operand. -/
theorem encode_pixelOfNats_toNat {i : Instr} {r g b a : Nat} (hidx : idxField i = 0)
    (hpix : pixField i = pixelOfNats r g b a) (h : channelsOk r g b a = true) :
    (encode i).toNat = (opcode i).toNat * 2 ^ 45 + r * 2 ^ 24 + g * 2 ^ 16 + b * 2 ^ 8 + a := by
  have hzero : (0 : SlotIdx).toNat = 0 := rfl
  rw [encode_toNat, hidx, hpix, pixelOfNats_word_toNat h, hzero]
  omega

theorem encode_read_toNat {idx : Nat} (h : idx ≤ 63) :
    (encode (.read (BitVec.ofNat 6 idx))).toNat = 5 * 2 ^ 45 + idx * 2 ^ 32 := by
  have hidx : (idxField (.read (BitVec.ofNat 6 idx))).toNat = idx := by
    rw [idxField, BitVec.toNat_ofNat, Nat.mod_eq_of_lt (by omega)]
  have hpix : (pixField (.read (BitVec.ofNat 6 idx))).word.toNat = 0 := by rw [pixField]; decide
  have hop : (5 : BitVec 3).toNat = 5 := rfl
  rw [encode_toNat, hidx, hpix, opcode_read, hop, Nat.add_zero]

/-- Settles O51: a statement in range is its command's word, which is its fields as a number. -/
theorem assemblerPlacesOrRefuses : Obligations.AssemblerPlacesOrRefuses := by
  unfold Obligations.AssemblerPlacesOrRefuses
  refine ⟨fun r g b a h => ?channels, fun idx h => ?index, fun r g b a hr hg hb ha => ?pixels,
    fun idx h => ⟨_, assemble_of_wf (decide_eq_true h), encode_read_toNat h⟩,
    fun w h => assemble_of_wf (decide_eq_true h), ?nop, ?clear⟩
  case channels =>
    have hrange := channelsOk_eq_false h
    exact ⟨assemble_of_not_wf hrange, assemble_of_not_wf hrange, assemble_of_not_wf hrange,
      assemble_of_not_wf hrange⟩
  case index => exact assemble_of_not_wf (decide_eq_false (by omega))
  case pixels =>
    have hrange := (channelsOk_iff r g b a).mpr ⟨hr, hg, hb, ha⟩
    exact ⟨_, _, _, assemble_of_wf hrange, assemble_of_wf hrange, assemble_of_wf hrange,
      encode_pixelOfNats_toNat rfl rfl hrange, encode_pixelOfNats_toNat rfl rfl hrange,
      encode_pixelOfNats_toNat rfl rfl hrange⟩
  case nop => decide
  case clear => decide

end Sys2Proof.Machine
end

section
/-! SUPPORT. Proofs about how the hash spreads pixels over the slots (40_query.md, section 5). -/

namespace Sys2Proof.Machine

/-! ### Each channel alone is a bijection -/

/-- The hash in the slots' own arithmetic: each channel's low 6 bits, weighted. -/
theorem slotHash_eq_sum (p : Pixel) :
    slotHash p = 3 * p.r.setWidth 6 + 5 * p.g.setWidth 6 + 7 * p.b.setWidth 6 + 11 * p.a.setWidth 6 := by
  rw [slotHash_eq_hashSumAtWidth]
  rfl

/-- R63, with each channel cut to its low 6 bits first. -/
theorem slotHash_toNat_low (p : Pixel) :
    (slotHash p).toNat
      = (3 * (p.r.toNat % 64) + 5 * (p.g.toNat % 64) + 7 * (p.b.toNat % 64) + 11 * (p.a.toNat % 64)) % 64 := by
  rw [slotHash_toNat, hashSum_eq]
  omega

/-- A slot number widened to a channel is that channel's low 6 bits. -/
theorem setWidth_channel_of_slot (k : SlotIdx) : (k.setWidth 8).setWidth 6 = k := by
  rw [BitVec.setWidth_setWidth_of_le _ (by decide), BitVec.setWidth_eq]

/-- A map of the slots that is linear up to a constant, by a factor `c` with inverse `d` mod 64, reaches
each slot once. -/
theorem bijective_of_eq_mul_add {f : SlotIdx → SlotIdx} {c : SlotIdx} (d : SlotIdx)
    (hf : ∀ k, f k = c * k + f 0) (h : d * c = 1) : Function.Bijective f := by
  refine ⟨fun k l hkl => ?injective, fun j => ⟨d * (j - f 0), ?surjective⟩⟩
  case injective =>
    rw [hf k, hf l] at hkl
    calc k = d * (c * k) := by rw [← mul_assoc, h, one_mul]
      _ = d * (c * l) := by rw [add_right_cancel hkl]
      _ = l := by rw [← mul_assoc, h, one_mul]
  case surjective =>
    calc f (d * (j - f 0)) = d * c * (j - f 0) + f 0 := by rw [hf]; ring
      _ = j := by rw [h, one_mul, sub_add_cancel]

/-- Settles O3: each coefficient is odd, and so has an inverse mod 64: 43, 13, 55 and 35. -/
theorem hashLowBitsAndBijection : Obligations.HashLowBitsAndBijection := by
  unfold Obligations.HashLowBitsAndBijection
  refine ⟨slotHash_sentinel, slotHash_toNat_low, fun p => ⟨?r, ?g, ?b, ?a⟩⟩
  case r =>
    refine bijective_of_eq_mul_add (c := 3) 43 (fun k => ?_) (by decide)
    simp only [slotHash_eq_sum, setWidth_channel_of_slot]
    ring
  case g =>
    refine bijective_of_eq_mul_add (c := 5) 13 (fun k => ?_) (by decide)
    simp only [slotHash_eq_sum, setWidth_channel_of_slot]
    ring
  case b =>
    refine bijective_of_eq_mul_add (c := 7) 55 (fun k => ?_) (by decide)
    simp only [slotHash_eq_sum, setWidth_channel_of_slot]
    ring
  case a =>
    refine bijective_of_eq_mul_add (c := 11) 35 (fun k => ?_) (by decide)
    simp only [slotHash_eq_sum, setWidth_channel_of_slot]
    ring

/-! ### How many pixels share a home -/

/-- Four of the 256 bytes have given low 6 bits. -/
theorem card_bytes_with_low_bits (j : SlotIdx) :
    (Finset.univ.filter fun n : Fin 256 => BitVec.ofNat 6 n = j).card = 4 := by
  have hlow (n : ℕ) : BitVec.ofNat 6 n = j ↔ n ≡ j.toNat [MOD 64] := by
    rw [← BitVec.toNat_inj, BitVec.toNat_ofNat, Nat.ModEq, Nat.mod_eq_of_lt j.isLt]
  calc (Finset.univ.filter fun n : Fin 256 => BitVec.ofNat 6 n = j).card
      = Nat.count (· ≡ j.toNat [MOD 64]) 256 := by
        rw [Nat.count_eq_card_filter_range, ← Nat.Iio_eq_range, ← Fin.map_valEmbedding_univ,
          Finset.filter_map, Finset.card_map]
        simp only [hlow, Function.comp_def, Fin.valEmbedding_apply]
    _ = 4 := by rw [Nat.count_modEq_card 256 (by decide), Nat.mod_eq_of_lt j.isLt]; simp

/-- With the other channels fixed, four values of `r` reach a given slot: all those with the low 6 bits that
the bijection gives. -/
theorem card_r_with_home (g b a : Byte) (k : SlotIdx) :
    (Finset.univ.filter fun n : Fin 256 => slotHash ⟨BitVec.ofNat 8 n, g, b, a⟩ = k).card = 4 := by
  obtain ⟨-, -, hbijective⟩ := hashLowBitsAndBijection
  obtain ⟨⟨hinj, hsurj⟩, -⟩ := hbijective ⟨0, g, b, a⟩
  obtain ⟨j, hj⟩ := hsurj k
  have hhome (n : ℕ) : slotHash ⟨BitVec.ofNat 8 n, g, b, a⟩ = k ↔ BitVec.ofNat 6 n = j := by
    rw [← hj, ← hinj.eq_iff (a := BitVec.ofNat 6 n)]
    simp only [slotHash_eq_sum, setWidth_channel_of_slot]
    rw [BitVec.setWidth_ofNat_of_le (by decide)]
  simp only [hhome, card_bytes_with_low_bits]

/-- Settles O4: four values of `r` for each of the 256^3 choices of the other channels. -/
theorem everySlotIsHomeOf2To26Pixels : Obligations.EverySlotIsHomeOf2To26Pixels := by
  unfold Obligations.EverySlotIsHomeOf2To26Pixels
  intro k
  rw [Finset.card_filter, Fintype.sum_prod_type_right]
  simp only [← Finset.card_filter, card_r_with_home]
  simp

end Sys2Proof.Machine
end

section
/-! SUPPORT. Proofs about every step: what `exec` leaves alone, what one edge keeps, and when a response
appears (10_state.md, section 1; 30_encoding.md, section 1). -/

namespace Sys2Proof.Machine

/-! ### One command (R17, R18, R83) -/

/-- Settles O22: a command is its transaction committed, and a transaction writes only as CLEAR or STORE
do. -/
theorem frameOfEveryCommand : Obligations.FrameOfEveryCommand := by
  unfold Obligations.FrameOfEveryCommand
  intro i s t h
  rw [exec_eq_commit] at h
  obtain rfl := Host.Outcome.next.inj h
  refine ⟨State.commit_rsp .., State.commit_rspValid .., State.commit_hold .., State.commit_input ..,
    State.commit_edges .., ⟨_, State.commit_inflight ..⟩, ?store, fun hclear hstore k => ?other⟩
  case store =>
    rintro p rfl k hk
    rw [State.commit_cache, transact_store_slots]
    exact readSlot_writeSlot_ne _ p hk
  case other => rw [State.commit_cache, transact_slots_of_ne _ hclear hstore]

/-- Settles O28: the STORE left the pixel in its home slot, where LOOKUP and READ find it. -/
theorem nextCommandSeesTheStore : Obligations.NextCommandSeesTheStore := by
  unfold Obligations.NextCommandSeesTheStore
  refine fun t p => ⟨?lookup, transact_read_rsp_of_stored t p⟩
  case lookup =>
    rw [← transact_store_rsp_eq_lookup, transact_store_rsp, probeResponse_of_held]
    rw [transact_store_slots, readSlot_writeSlot_same]

/-! ### One edge -/

/-- At an edge that offers a word to a block that is ready, the word is accepted (R48). -/
theorem State.accepts_of_offered {s : State} {w : CmdWord} {rest : List PortIn}
    (hin : s.input = ⟨false, true, w⟩ :: rest) (hhold : s.hold = 0) : s.accepts = true := by
  simp [State.accepts, State.cmdReady, State.pins, hin, hhold]

/-- Log entry 2: the accepted word takes effect in that step. -/
theorem step_of_offered {s : State} {w : CmdWord} {rest : List PortIn}
    (hin : s.input = ⟨false, true, w⟩ :: rest) (hhold : s.hold = 0) :
    step s = acceptEdge Config.impl (decode w) { s with input := rest } := by
  have hpins : s.pins = ⟨false, true, w⟩ := by simp [State.pins, hin]
  have htake : s.takeInput = { s with input := rest } := by simp [State.takeInput, hin]
  rw [step, stepWith_of_accepts _ (State.accepts_of_offered hin hhold), hpins, htake]

/-- Settles O33: the offered word's edge, at any state and at the state that `withFetchWord` makes. -/
theorem stepRunsTheDecodedCommand : Obligations.StepRunsTheDecodedCommand := by
  unfold Obligations.StepRunsTheDecodedCommand
  refine ⟨fun s w rest hin hhold => step_of_offered hin hhold, fun s w => ?delivered⟩
  case delivered =>
    have hw : BitVec.ofNat 48 (w.toNat % 2 ^ 48) = w := by
      rw [Nat.mod_eq_of_lt w.isLt, BitVec.ofNat_toNat, BitVec.setWidth_eq]
    rw [State.withFetchWord, hw]
    exact step_of_offered (State.offering_input s w) (State.offering_hold s w)

theorem stepWith_answers (m : Config.Impl) (s : State) : ∃ t, stepWith m s = .next t := by
  obtain ⟨-, hstep⟩ | ⟨-, -, hstep⟩ | ⟨-, -, hstep⟩ := stepWith_cases m s
  · exact ⟨_, hstep⟩
  · exact ⟨_, hstep⟩
  · exact ⟨_, hstep⟩

/-- Settles O34: each of the three kinds of edge answers a next state. -/
theorem everyStepAnswers : Obligations.EveryStepAnswers :=
  stepWith_answers Config.impl

/-! ### The slot invariant (R19) -/

/-- No command breaks the slot invariant. -/
theorem slotsHome_transact {t : SlotArray} (ht : SlotsHome t) (i : Instr) :
    SlotsHome (transact t i).slots := by
  obtain hkeep | ⟨-, hclear⟩ | ⟨p, -, hstore⟩ := transact_slots_cases t i
  · rwa [hkeep]
  · rw [hclear]
    exact slotsHome_clearedSlots
  · rw [hstore]
    exact slotsHome_writeSlot ht p

/-- Settles O35: an edge clears the slots, runs one command on them, or leaves them. -/
theorem stepKeepsSlotsHome : Obligations.StepKeepsSlotsHome := by
  unfold Obligations.StepKeepsSlotsHome
  intro s t hs hstep
  obtain ⟨-, hcase⟩ | ⟨-, -, hcase⟩ | ⟨-, -, hcase⟩ := stepWith_cases Config.impl s
  · obtain rfl := Host.Outcome.next.inj (hcase.symm.trans hstep)
    rw [resetEdge_cache]
    exact slotsHome_clearedSlots
  · obtain rfl := Host.Outcome.next.inj (hcase.symm.trans hstep)
    rw [finishEdge_cache, State.commit_cache]
    exact slotsHome_transact hs _
  · obtain rfl := Host.Outcome.next.inj (hcase.symm.trans hstep)
    rwa [finishEdge_cache, State.takeInput_cache]

/-! ### What is in flight (R49) -/

/-- What is in flight once the word accepted at the coming edge, if any, has joined it. -/
def State.entering (s : State) : List Pending :=
  s.inflight ++ s.acceptedWord.toList.map fun w => ⟨(issue s.cache w).2, 0⟩

/-- An edge without reset ages what is in flight, the word it accepts included, and shows the response that
is then due. -/
theorem stepWith_of_not_rst (m : Config.Impl) {s : State} (h : s.pins.rst = false) :
    ∃ t, stepWith m s = .next t ∧ t.input = s.input.tail ∧
      t.inflight = (popDue m (aged s.entering)).2 ∧
      t.rspValid = (popDue m (aged s.entering)).1.isSome ∧
      t.rsp = (popDue m (aged s.entering)).1.getD (m.idleRsp s.edges) := by
  obtain ⟨hr, -⟩ | ⟨-, ha, hstep⟩ | ⟨-, ha, hstep⟩ := stepWith_cases m s
  · simp [h] at hr
  · rw [State.entering, State.acceptedWord_of_accepts ha]
    exact ⟨_, hstep, rfl, rfl, rfl, rfl⟩
  · rw [State.entering, State.acceptedWord_of_not_accepts ha, Option.toList_none, List.map_nil,
      List.append_nil]
    exact ⟨_, hstep, rfl, rfl, rfl, rfl⟩

/-- What is in flight when an edge has aged it and before the response that is due leaves: ordered as
between edges, with ages up to `RSP_LATENCY`. -/
def AgedOk (m : Config.Impl) (l : List Pending) : Prop :=
  l.Pairwise (fun p q => q.age < p.age) ∧ ∀ p ∈ l, 1 ≤ p.age ∧ p.age ≤ m.rspLatency

/-- What an edge ages is either in flight already or accepted just now. -/
theorem State.mem_entering {s : State} {p : Pending} (h : p ∈ s.entering) :
    p ∈ s.inflight ∨ p.age = 0 := by
  rw [State.entering, List.mem_append, List.mem_map] at h
  obtain h | ⟨w, -, rfl⟩ := h
  · exact .inl h
  · exact .inr rfl

/-- A word accepted at the edge is younger than all that is in flight. -/
theorem State.entering_pairwise {m : Config.Impl} {s : State} (h : PipelineOk m s.inflight) :
    s.entering.Pairwise (fun p q => q.age < p.age) := by
  obtain ⟨horder, hages⟩ := h
  refine List.pairwise_append.mpr ⟨horder, ?accepted, fun p hp q hq => ?younger⟩
  case accepted => cases s.acceptedWord <;> simp
  case younger =>
    obtain ⟨w, -, rfl⟩ := List.mem_map.mp hq
    exact (hages p hp).1

theorem agedOk_entering {m : Config.Impl} {s : State} (h : PipelineOk m s.inflight) :
    AgedOk m (aged s.entering) := by
  refine ⟨List.pairwise_map.mpr ((State.entering_pairwise h).imp Nat.succ_lt_succ), fun p hp => ?ages⟩
  case ages =>
    obtain ⟨q, hq, rfl⟩ := List.mem_map.mp hp
    refine ⟨Nat.le_add_left 1 q.age, ?_⟩
    obtain hold | hnew := State.mem_entering hq
    · exact (h.2 q hold).2
    · simp [hnew, Config.Impl.rspLatency]

section
variable {m : Config.Impl} {l : List Pending} {p : Pending}

/-- The oldest is the only one that can be due, and it leaves when it is. -/
theorem AgedOk.pipelineOk_popDue (h : AgedOk m l) : PipelineOk m (popDue m l).2 := by
  obtain ⟨horder, hages⟩ := h
  cases l with
  | nil => exact pipelineOk_nil m
  | cons q rest =>
    obtain ⟨hyounger, hrest⟩ := List.pairwise_cons.mp horder
    obtain ⟨⟨hq1, hq2⟩, hages⟩ := List.forall_mem_cons.mp hages
    have hlt : ∀ p ∈ rest, 1 ≤ p.age ∧ p.age < m.rspLatency := fun p hp =>
      ⟨(hages p hp).1, (hyounger p hp).trans_le hq2⟩
    rw [popDue]
    split
    · exact ⟨hrest, hlt⟩
    · next hdue => exact ⟨horder, List.forall_mem_cons.mpr ⟨⟨hq1, not_le.mp hdue⟩, hlt⟩⟩

/-- One that has waited `RSP_LATENCY` edges is the oldest, so its response appears. -/
theorem AgedOk.popDue_eq_some (h : AgedOk m l) (hp : p ∈ l) (hage : p.age = m.rspLatency) :
    (popDue m l).1 = some p.rsp := by
  obtain ⟨horder, hages⟩ := h
  cases l with
  | nil => exact nomatch hp
  | cons q rest =>
    obtain rfl | hrest := List.mem_cons.mp hp
    · rw [popDue, if_pos hage.ge]
    · have holder : p.age < q.age := List.rel_of_pairwise_cons horder hrest
      have hle : q.age ≤ m.rspLatency := (hages q List.mem_cons_self).2
      omega

/-- What is not yet due stays in flight. -/
theorem mem_popDue_of_lt (hp : p ∈ l) (hage : p.age < m.rspLatency) : p ∈ (popDue m l).2 := by
  cases l with
  | nil => exact nomatch hp
  | cons q rest =>
    rw [popDue]
    split
    · next hdue =>
      obtain rfl | hrest := List.mem_cons.mp hp
      · exact absurd hdue (not_le.mpr hage)
      · exact hrest
    · exact hp

end

/-- Whatever the edge, the pipeline keeps its order and ages. -/
theorem stepWith_pipelineOk {m : Config.Impl} {s t : State} (hs : PipelineOk m s.inflight)
    (hstep : stepWith m s = .next t) : PipelineOk m t.inflight := by
  cases hrst : s.pins.rst with
  | true =>
    obtain rfl := Host.Outcome.next.inj ((stepWith_of_rst m hrst).symm.trans hstep)
    rw [resetEdge_inflight]
    exact pipelineOk_nil m
  | false =>
    obtain ⟨u, hu, -, hinflight, -⟩ := stepWith_of_not_rst m hrst
    obtain rfl := Host.Outcome.next.inj (hu.symm.trans hstep)
    rw [hinflight]
    exact (agedOk_entering hs).pipelineOk_popDue

/-- Settles O36: an edge ages what is in flight, and then only what is not yet due stays. -/
theorem stepKeepsPipelineOrder : Obligations.StepKeepsPipelineOrder := by
  unfold Obligations.StepKeepsPipelineOrder
  exact ⟨fun _ _ _ => stepWith_pipelineOk, fun _ _ => stepWith_pipelineOk⟩

/-! ### When a response appears (R49; log entry 3) -/

/-- What has `n` edges of its latency still to wait after the coming one appears after exactly these edges:
at each but the last it stays in flight, one edge older. -/
theorem portTrace_rsp_of_mem_entering {m : Config.Impl} {n : Nat} {s : State} {p : Pending}
    (hs : PipelineOk m s.inflight) (hp : p ∈ s.entering) (hage : p.age + (n + 1) = m.rspLatency)
    (hreset : s.NoReset (n + 1)) :
    (portTrace m (n + 1) s).final.rspValid = true ∧ (portTrace m (n + 1) s).final.rsp = p.rsp := by
  induction n generalizing s p with
  | zero =>
    obtain ⟨t, hstep, -, -, hvalid, hrsp⟩ := stepWith_of_not_rst m hreset.pins_rst
    have hdue := (agedOk_entering hs).popDue_eq_some (List.mem_map_of_mem hp) hage
    rw [portTrace_succ hstep, portTrace, hvalid, hrsp, hdue]
    exact ⟨rfl, rfl⟩
  | succ n ih =>
    obtain ⟨t, hstep, hinput, hinflight, -⟩ := stepWith_of_not_rst m hreset.pins_rst
    have hwaits : { p with age := p.age + 1 } ∈ t.inflight := by
      rw [hinflight]
      exact mem_popDue_of_lt (List.mem_map_of_mem hp) (by simp only; omega)
    rw [portTrace_succ hstep]
    exact ih (p := { p with age := p.age + 1 }) (stepWith_pipelineOk hs hstep)
      (List.mem_append_left _ hwaits) (by simp only; omega) (hreset.of_tail hinput)

/-- Settles O37: the accepted word enters with age 0, and so waits all of `RSP_LATENCY`. -/
theorem responseAfterExactlyRspLatency : Obligations.ResponseAfterExactlyRspLatency := by
  unfold Obligations.ResponseAfterExactlyRspLatency
  intro m s hs haccepts hreset
  have henters : ⟨(issue s.cache s.pins.cmd).2, 0⟩ ∈ s.entering := by
    simp [State.entering, State.acceptedWord_of_accepts haccepts]
  exact portTrace_rsp_of_mem_entering hs henters (Nat.zero_add _) hreset

/-! ### Several instances (R27, R103; log entry 19) -/

/-- An edge of one of the instances leaves in its place what its own step answers. -/
theorem stepInstance_same (impl : Nat → Config.Impl) {ys : List State} {k : Nat} {y : State}
    (hy : ys[k]? = some y) :
    ∃ z, stepWith (impl k) y = .next z ∧ stepInstance impl ys k = .next (ys.set k z) := by
  obtain ⟨z, hz⟩ := stepWith_answers (impl k) y
  exact ⟨z, hz, by simp only [stepInstance, hy, hz]⟩

theorem stepInstance_none (impl : Nat → Config.Impl) {ys : List State} {k : Nat} (hy : ys[k]? = none) :
    stepInstance impl ys k = .next ys := by
  simp only [stepInstance, hy]

/-- An edge of one of the instances is not seen by the others (R103). -/
theorem stepInstance_other {impl : Nat → Config.Impl} (ys : List State) {j k : Nat} (hne : j ≠ k) :
    ∃ ws, stepInstance impl ys j = .next ws ∧ ws[k]? = ys[k]? := by
  cases hj : ys[j]? with
  | none => exact ⟨ys, stepInstance_none impl hj, rfl⟩
  | some y =>
    obtain ⟨z, -, hstep⟩ := stepInstance_same impl hj
    exact ⟨ys.set j z, hstep, List.getElem?_set_ne hne⟩

theorem runInstances_cons_of_step {impl : Nat → Config.Impl} {ys ws : List State} {j : Nat}
    (h : stepInstance impl ys j = .next ws) (js : List Nat) :
    runInstances impl ys (j :: js) = runInstances impl ws js := by
  simp only [runInstances, h]

theorem run_coreWith_succ {m : Config.Impl} {y z : State} (h : stepWith m y = .next z) (n : Nat) :
    Host.Core.run (coreWith m) (n + 1) y = Host.Core.run (coreWith m) n z := by
  have hstep : (coreWith m).step y = .next z := h
  simp only [Host.Core.run, hstep]

/-- Settles O41, by induction on the order of the edges: an edge of its own is one step of its run, and an
edge of another leaves it as it was. -/
theorem instancesShareNothing : Obligations.InstancesShareNothing := by
  unfold Obligations.InstancesShareNothing
  intro impl ys zs sched k y hrun hy
  induction sched generalizing ys y with
  | nil =>
    obtain rfl := Host.Outcome.next.inj hrun
    exact ⟨y, hy, rfl⟩
  | cons j js ih =>
    by_cases hjk : j = k
    · subst hjk
      obtain ⟨z, hz, hstep⟩ := stepInstance_same impl hy
      have hlt : j < ys.length := (List.getElem?_eq_some_iff.mp hy).1
      rw [runInstances_cons_of_step hstep] at hrun
      rw [List.count_cons_self, run_coreWith_succ hz]
      exact ih (ys.set j z) z hrun (List.getElem?_set_self hlt)
    · obtain ⟨ws, hstep, hws⟩ := stepInstance_other (impl := impl) ys hjk
      rw [runInstances_cons_of_step hstep] at hrun
      rw [List.count_cons_of_ne hjk]
      exact ih ws y hrun (hws.trans hy)

end Sys2Proof.Machine
end

section
/-! SUPPORT. Proofs about the encoder and the decoder together: replaying the chunks, what the clients send,
and the fresh start (R79 to R91, R100, R106). -/

namespace Sys2Proof.Machine

/-! ### Held pixels

A pixel that its home slot holds may be stored again, any number of times, without a change. -/

theorem storeAll_append (t : SlotArray) (ps qs : List Pixel) :
    storeAll t (ps ++ qs) = storeAll (storeAll t ps) qs :=
  List.foldl_append

theorem storeHistory_append (t : SlotArray) (ps qs : List Pixel) :
    storeHistory t (ps ++ qs) = storeHistory t ps ++ storeHistory (storeAll t ps) qs := by
  induction ps generalizing t with
  | nil => rfl
  | cons p ps ih => simp only [List.cons_append, storeHistory, storeAll_cons, ih]

section
variable {t : SlotArray} {p : Pixel}

theorem writeSlot_of_held (h : readSlot t (slotHash p) = p) : writeSlot t (slotHash p) p = t :=
  transact_store_slots_of_held h

theorem storeAll_replicate_of_held (h : readSlot t (slotHash p) = p) (n : Nat) :
    storeAll t (List.replicate n p) = t := by
  induction n with
  | zero => rfl
  | succ n ih => rw [List.replicate_succ, storeAll_cons, writeSlot_of_held h, ih]

theorem storeHistory_replicate_of_held (h : readSlot t (slotHash p) = p) (n : Nat) :
    storeHistory t (List.replicate n p) = List.replicate n t := by
  induction n with
  | zero => rfl
  | succ n ih => rw [List.replicate_succ, storeHistory, writeSlot_of_held h, ih, List.replicate_succ]

end

/-! ### What the decoder makes of one chunk (R84 to R86, R89) -/

/-- The pixel a decoder forms from a chunk and its previous pixel, and stores (R84); an Index or a Run chunk
forms none. -/
def Chunk.formed (prev : Pixel) : Chunk → Option Pixel
  | .literalRgb r g b => some ⟨r, g, b, prev.a⟩
  | .literalRgba p => some p
  | .diff p => some p
  | .luma p => some p
  | .index _ => none
  | .run _ => none

/-- A decoding from the slots `t` is as good as a store of each of the pixels `ps` in turn: it puts them out,
its slots after each are the same, and `last` is then the previous pixel. -/
structure DecoderRun.Stores (r : DecoderRun) (t : SlotArray) (ps : List Pixel) (last : Pixel) : Prop where
  out : r.out = ps
  history : r.history = storeHistory t ps
  slots : r.slots = storeAll t ps
  prev : r.prev = last

/-- R91: the commands and the one write of a decoder that stores what it reads. -/
theorem decodeIndexStoring_eq (t : SlotArray) (k : SlotIdx) :
    decodeIndexStoring t k =
      ⟨readSlot t k, writeSlot t (slotHash (readSlot t k)) (readSlot t k), [readSlot t k],
        [(ask t (.read k)).2, (ask t (.store (readSlot t k))).2],
        [writeSlot t (slotHash (readSlot t k)) (readSlot t k)]⟩ := by
  have hread : (transact t (.read k)).slots = t := transact_slots_of_isQuiet t rfl
  simp only [decodeIndexStoring, ask_reply, ask_slots, hread, transact_read_rsp, transact_store_slots]

section
variable {storing : Bool} {t : SlotArray} {prev p : Pixel} {c : Chunk}

/-- R84: a formed pixel is stored and put out. -/
theorem decodeChunk_stores_of_formed (h : c.formed prev = some p) :
    (decodeChunk storing t prev c).Stores t [p] p := by
  have hformed : decodeChunk storing t prev c = decodeFormed t p := by
    cases c with
    | index s => exact nomatch h
    | run n => exact nomatch h
    | _ => obtain rfl := Option.some.inj h; rfl
  have hslots : (ask t (.store p)).1 = writeSlot t (slotHash p) p := by
    rw [ask_slots, transact_store_slots]
  rw [hformed, decodeFormed, hslots]
  exact ⟨rfl, rfl, rfl, rfl⟩

/-- R85, R89: a pixel read at its home is held there, so the store that is left out would change nothing. -/
theorem decodeChunk_index_stores (h : readSlot t (slotHash p) = p) :
    (decodeChunk storing t prev (.index (slotHash p))).Stores t [p] p := by
  cases storing with
  | false =>
    rw [decodeChunk, if_neg Bool.false_ne_true, decodeIndex_eq, h]
    exact ⟨rfl, by rw [storeHistory, writeSlot_of_held h, storeHistory],
      by rw [storeAll_cons, storeAll_nil, writeSlot_of_held h], rfl⟩
  | true =>
    rw [decodeChunk, if_pos rfl, decodeIndexStoring_eq, h]
    exact ⟨rfl, rfl, rfl, rfl⟩

/-- R89: with the stores that R86 leaves out, a run is so many stores of the previous pixel. -/
theorem decodeRunStoring_stores (t : SlotArray) (prev : Pixel) (n : Nat) :
    (decodeRunStoring t prev n).Stores t (List.replicate n prev) prev := by
  induction n generalizing t with
  | zero => exact ⟨rfl, rfl, rfl, rfl⟩
  | succ n ih =>
    obtain ⟨hout, hhistory, hslots, -⟩ := ih (writeSlot t (slotHash prev) prev)
    simp only [decodeRunStoring, ask_slots, transact_store_slots, List.replicate_succ]
    exact ⟨by rw [hout], by rw [hhistory, storeHistory], by rw [hslots, storeAll_cons], rfl⟩

/-- R86, R89: the stores of the copies of a held pixel would change nothing either. -/
theorem decodeChunk_run_stores (h : readSlot t (slotHash prev) = prev) (n : Nat) :
    (decodeChunk storing t prev (.run n)).Stores t (List.replicate n prev) prev := by
  cases storing with
  | false =>
    rw [decodeChunk, if_neg Bool.false_ne_true, decodeRun]
    exact ⟨rfl, (storeHistory_replicate_of_held h n).symm, (storeAll_replicate_of_held h n).symm, rfl⟩
  | true =>
    rw [decodeChunk, if_pos rfl]
    exact decodeRunStoring_stores t prev n

/-- One chunk's pixels come before those of the rest. -/
theorem DecoderRun.Stores.decodeFrom_cons_out {ps : List Pixel} {last : Pixel}
    (hturn : (decodeChunk storing t prev c).Stores t ps last) (cs : List Chunk) :
    (decodeFrom storing t prev (c :: cs)).out
      = ps ++ (decodeFrom storing (storeAll t ps) last cs).out := by
  obtain ⟨hout, -, hslots, hprev⟩ := hturn
  simp only [decodeFrom, hout, hslots, hprev]

/-- One chunk and then the rest: the stores of both. -/
theorem DecoderRun.Stores.decodeFrom_cons {cs : List Chunk} {ps qs : List Pixel} {last last' : Pixel}
    (hturn : (decodeChunk storing t prev c).Stores t ps last)
    (hrest : (decodeFrom storing (storeAll t ps) last cs).Stores (storeAll t ps) qs last') :
    (decodeFrom storing t prev (c :: cs)).Stores t (ps ++ qs) last' := by
  obtain ⟨hout, hhistory, hslots, hprev⟩ := hturn
  obtain ⟨hout', hhistory', hslots', hprev'⟩ := hrest
  simp only [decodeFrom, hslots, hprev]
  exact ⟨by rw [hout, hout'], by rw [hhistory, hhistory', storeHistory_append],
    by rw [hslots', storeAll_append], hprev'⟩

end

/-! ### Chunks that track pixels -/

/-- From the slots `t` and the previous pixel `prev`, some chunks stand for some pixels, each of them formed,
or held where an Index chunk names it, or held as the previous pixel of a run. -/
inductive Tracks : SlotArray → Pixel → List Chunk → List Pixel → Prop
  | nil {t : SlotArray} {prev : Pixel} : Tracks t prev [] []
  | formed {t : SlotArray} {prev p : Pixel} {c : Chunk} {cs : List Chunk} {ps : List Pixel}
      (hc : c.formed prev = some p) (hrest : Tracks (writeSlot t (slotHash p) p) p cs ps) :
      Tracks t prev (c :: cs) (p :: ps)
  | index {t : SlotArray} {prev p : Pixel} {cs : List Chunk} {ps : List Pixel}
      (hheld : readSlot t (slotHash p) = p) (hrest : Tracks t p cs ps) :
      Tracks t prev (.index (slotHash p) :: cs) (p :: ps)
  | run {t : SlotArray} {prev : Pixel} {n : Nat} {cs : List Chunk} {ps : List Pixel}
      (hheld : readSlot t (slotHash prev) = prev) (hn : n ≠ 0) (hrest : Tracks t prev cs ps) :
      Tracks t prev (.run n :: cs) (List.replicate n prev ++ ps)

/-- R88: a decoder puts out the pixels that its chunks track, and its slots are as if each were stored,
whether it issues the left-out stores or not (R89). -/
theorem Tracks.decodeFrom_stores {t : SlotArray} {prev : Pixel} {cs : List Chunk} {ps : List Pixel}
    (h : Tracks t prev cs ps) (storing : Bool) :
    ∃ last, (decodeFrom storing t prev cs).Stores t ps last := by
  induction h with
  | nil => exact ⟨_, rfl, rfl, rfl, rfl⟩
  | formed hc _ ih =>
    obtain ⟨last, hrest⟩ := ih
    exact ⟨last, (decodeChunk_stores_of_formed hc).decodeFrom_cons hrest⟩
  | @index t _ _ _ _ hheld _ ih =>
    obtain ⟨last, hrest⟩ := ih
    refine ⟨last, (decodeChunk_index_stores hheld).decodeFrom_cons ?_⟩
    rwa [storeAll_cons, storeAll_nil, writeSlot_of_held hheld]
  | run hheld _ _ ih =>
    obtain ⟨last, hrest⟩ := ih
    refine ⟨last, (decodeChunk_run_stores hheld _).decodeFrom_cons ?_⟩
    rwa [storeAll_replicate_of_held hheld]

/-- Chunks with the same use of the cache form a pixel both or neither. -/
theorem Chunk.exists_formed_of_sameCacheUse {c d : Chunk} {q p : Pixel} (hc : c.formed q = some p)
    (h : sameCacheUse c d = true) (q' : Pixel) : ∃ p', d.formed q' = some p' := by
  cases d with
  | index s => cases c <;> simp [sameCacheUse, Chunk.formed] at h hc
  | run n => cases c <;> simp [sameCacheUse, Chunk.formed] at h hc
  | _ => exact ⟨_, rfl⟩

theorem eq_index_of_sameCacheUse {s : SlotIdx} {d : Chunk} (h : sameCacheUse (.index s) d = true) :
    d = .index s := by
  cases d with
  | index s' => rw [eq_of_beq h]
  | _ => exact nomatch h

theorem eq_run_of_sameCacheUse {n : Nat} {d : Chunk} (h : sameCacheUse (.run n) d = true) :
    d = .run n := by
  cases d with
  | run n' => rw [eq_of_beq h]
  | _ => exact nomatch h

/-- R88: chunks that ask of the cache what tracking chunks ask, and that are decoded to the same pixels, track
them too. In particular both have the same previous pixel where a run begins. -/
theorem Tracks.of_sameCacheUse {t : SlotArray} {q q' : Pixel} {es cs : List Chunk} {ps : List Pixel}
    (h : Tracks t q es ps) (huse : List.Forall₂ (fun c d => sameCacheUse c d = true) es cs)
    (hout : (decodeFrom false t q' cs).out = ps) : Tracks t q' cs ps := by
  induction h generalizing q' cs with
  | nil =>
    obtain rfl := List.forall₂_nil_left_iff.mp huse
    exact .nil
  | formed hc _ ih =>
    obtain ⟨d, cs, hcd, htail, rfl⟩ := List.forall₂_cons_left_iff.mp huse
    obtain ⟨p', hd⟩ := Chunk.exists_formed_of_sameCacheUse hc hcd q'
    rw [(decodeChunk_stores_of_formed hd).decodeFrom_cons_out] at hout
    obtain ⟨rfl, hrest⟩ := List.cons.inj hout
    exact .formed hd (ih htail hrest)
  | @index t _ _ _ _ hheld _ ih =>
    obtain ⟨d, cs, hcd, htail, rfl⟩ := List.forall₂_cons_left_iff.mp huse
    obtain rfl := eq_index_of_sameCacheUse hcd
    rw [(decodeChunk_index_stores hheld).decodeFrom_cons_out, storeAll_cons, storeAll_nil,
      writeSlot_of_held hheld] at hout
    obtain ⟨-, hrest⟩ := List.cons.inj hout
    exact .index hheld (ih htail hrest)
  | run hheld hn _ ih =>
    obtain ⟨d, cs, hcd, htail, rfl⟩ := List.forall₂_cons_left_iff.mp huse
    obtain rfl := eq_run_of_sameCacheUse hcd
    obtain ⟨hrun, hrest⟩ := List.append_inj hout (by simp [decodeChunk, decodeRun])
    obtain rfl := (List.replicate_right_inj hn).mp hrun
    exact .run hheld hn (ih htail hrest)

/-! ### The encoder's chunks track its pixels (R79 to R82) -/

section
variable {f : EncoderForm} {ch : Channels} {pick : Pixel → Pixel → CodedKind} {t : SlotArray} {q p : Pixel}
  {cs : List Chunk} {ps : List Pixel}

/-- R77, R84: the decoder forms the pixel that the encoder coded: a Literal-RGB chunk lacks only the alpha,
which the previous pixel has too. -/
theorem codedChunk_formed (k : CodedKind) (h : ch = .rgb → p.a = q.a) :
    (codedChunk ch k p).formed q = some p := by
  cases k with
  | diff => rfl
  | luma => rfl
  | literal =>
    cases ch with
    | rgba => rfl
    | rgb => rw [codedChunk, literalChunk, Chunk.formed, ← h rfl]

theorem Tracks.flushRun_append (hheld : readSlot t (slotHash q) = q) (run : Nat) (h : Tracks t q cs ps) :
    Tracks t q (chunksOf (flushRun run) ++ cs) (List.replicate run q ++ ps) := by
  unfold flushRun
  split
  · next hrun => rw [hrun]; exact h
  · next hrun => exact .run hheld hrun h

theorem encodeFrom_cons_chunks (e : Encoder) (p : Pixel) (ps : List Pixel) :
    chunksOf (encodeFrom f ch pick t e (p :: ps)).events
      = chunksOf (encodePixel f ch pick t e ps.isEmpty p).events
        ++ chunksOf (encodeFrom f ch pick (encodePixel f ch pick t e ps.isEmpty p).slots
          (encodePixel f ch pick t e ps.isEmpty p).state ps).events :=
  chunksOf_append _ _

theorem Encoder.prevHeld_of_held (hheld : readSlot t (slotHash q) = q) (run : Nat) :
    Encoder.PrevHeld ⟨some q, run⟩ t :=
  fun _ h => Option.some.inj h ▸ hheld

/-- From a previous pixel that is held, what an encoder still emits tracks its pending run and then the
pixels still to come. A run is pending only while there are such pixels (R80). -/
theorem tracks_encodeFrom {run : Nat} (hheld : readSlot t (slotHash q) = q) (hlast : ps = [] → run = 0)
    (halpha : ch = .rgb → ∀ p ∈ q :: ps, p.a = 255) :
    Tracks t q (chunksOf (encodeFrom f ch pick t ⟨some q, run⟩ ps).events) (List.replicate run q ++ ps) := by
  induction ps generalizing t q run with
  | nil =>
    rw [hlast rfl]
    exact .nil
  | cons p ps ih =>
    have halpha' : ch = .rgb → ∀ x ∈ p :: ps, x.a = 255 := fun h => (List.forall_mem_cons.mp (halpha h)).2
    rw [encodeFrom_cons_chunks, encodePixel_slots (Encoder.prevHeld_of_held hheld run)]
    by_cases hp : p = q
    case pos =>
      subst hp
      have hrun : List.replicate run p ++ p :: ps = List.replicate (run + 1) p ++ ps := by
        rw [List.replicate_succ', List.append_assoc, List.singleton_append]
      rw [encodePixel_repeat rfl, encodeRepeat_chunks, encodeRepeat_eq, writeSlot_of_held hheld, hrun]
      split
      case isTrue => exact .run hheld (Nat.succ_ne_zero run) (ih hheld (fun _ => rfl) halpha')
      case isFalse hflush =>
        exact ih hheld (fun hps => absurd (by simp [hps]) hflush) halpha'
    case neg =>
      have hstored : readSlot (writeSlot t (slotHash p) p) (slotHash p) = p := readSlot_writeSlot_same ..
      have hrest := ih (run := 0) hstored (fun _ => rfl) halpha'
      rw [encodePixel_new rfl hp, encodeNew_chunks, List.append_assoc, encodeNew_eq]
      refine Tracks.flushRun_append hheld run ?_
      split
      case isTrue hheld' =>
        rw [writeSlot_of_held hheld'] at hrest ⊢
        exact .index hheld' hrest
      case isFalse =>
        refine .formed (codedChunk_formed _ fun h => ?_) hrest
        rw [halpha h p (by simp), halpha h q (by simp)]

/-- R79: and so from the first pixel on, whose chunk is a Literal. -/
theorem tracks_encodeFrom_init (halpha : ch = .rgb → ∀ p ∈ q :: ps, p.a = 255) :
    Tracks t q (chunksOf (encodeFrom f ch pick t Encoder.init ps).events) ps := by
  cases ps with
  | nil => exact .nil
  | cons p ps =>
    have hstored : readSlot (writeSlot t (slotHash p) p) (slotHash p) = p := readSlot_writeSlot_same ..
    rw [encodeFrom_cons_chunks, encodePixel_slots (Encoder.init_prevHeld t), encodePixel_first rfl]
    refine .formed (codedChunk_formed .literal fun h => ?alpha)
      (tracks_encodeFrom (run := 0) hstored (fun _ => rfl) fun h => (List.forall_mem_cons.mp (halpha h)).2)
    case alpha => rw [halpha h p (by simp), halpha h q (by simp)]

end

/-! ### Whole streams (R87 to R89) -/

section
variable {start : Start} {idle : List Instr} {f : EncoderForm} {ch : Channels}
  {pick : Pixel → Pixel → CodedKind} {storing : Bool} {init : Pixel} {t : SlotArray} {cs : List Chunk}
  {ps : List Pixel}

/-- R77: every operand of a 3-channel image is opaque. -/
theorem operandPixel_rgb_alpha (p : Pixel) : (operandPixel .rgb p).a = 255 := rfl

theorem tracks_encodeStream (hidle : ∀ i ∈ idle, isQuiet i = true) (hinit : ch = .rgb → init.a = 255) :
    Tracks clearedSlots init (chunksOf (encodeStream start idle f ch pick t ps).events)
      (ps.map (operandPixel ch)) := by
  rw [encodeStream_chunks, freshen_slots start hidle]
  refine tracks_encodeFrom_init fun h => List.forall_mem_cons.mpr ⟨hinit h, ?operands⟩
  case operands =>
    subst h
    exact List.forall_mem_map.mpr fun p _ => operandPixel_rgb_alpha p

theorem decodeStream_out (hidle : ∀ i ∈ idle, isQuiet i = true) :
    (decodeStream start idle storing init t cs).out = (decodeFrom storing clearedSlots init cs).out := by
  rw [decodeStream, freshen_slots start hidle]

theorem decodeStream_history (hidle : ∀ i ∈ idle, isQuiet i = true) :
    (decodeStream start idle storing init t cs).history
      = (decodeFrom storing clearedSlots init cs).history := by
  rw [decodeStream, freshen_slots start hidle]

/-- R88, R89: a decoder of a whole stream whose chunks track some pixels, in either form. -/
theorem decodeStream_of_tracks (hidle : ∀ i ∈ idle, isQuiet i = true) (h : Tracks clearedSlots init cs ps)
    (storing : Bool) (t : SlotArray) :
    (decodeStream start idle storing init t cs).out = ps ∧
      (decodeStream start idle storing init t cs).history = storeHistory clearedSlots ps := by
  obtain ⟨_, hout, hhistory, -, -⟩ := h.decodeFrom_stores storing
  exact ⟨(decodeStream_out hidle).trans hout, (decodeStream_history hidle).trans hhistory⟩

/-- R87: an encoder's slots from a fresh start. -/
theorem encodeStream_history_fresh (hidle : ∀ i ∈ idle, isQuiet i = true) :
    (encodeStream start idle f ch pick t ps).history
      = storeHistory clearedSlots (ps.map (operandPixel ch)) := by
  rw [encodeStream_history, freshen_slots start hidle]

end

/-- Settles O43: the encoder's chunks track its pixels. -/
theorem decoderStaysInLockstep : Obligations.DecoderStaysInLockstep := by
  unfold Obligations.DecoderStaysInLockstep
  intro start₁ start₂ idle₁ idle₂ f ch pick init t u ps hidle₁ hidle₂ hinit
  rw [encodeStream_history_fresh hidle₁]
  exact decodeStream_of_tracks hidle₂ (tracks_encodeStream hidle₁ hinit) false u

/-- Settles O53: chunks with the same use of the cache that are decoded to the image track it too. That the
encoder's own chunks do is taken at an opaque `PREV_INIT`, for the decoder's may be any. -/
theorem exactReconstructionGivesLockstep : Obligations.ExactReconstructionGivesLockstep := by
  unfold Obligations.ExactReconstructionGivesLockstep
  intro start₁ start₂ idle₁ idle₂ f ch pick init t u ps cs hidle₁ hidle₂ huse hout
  have hencoder : Tracks clearedSlots ⟨0, 0, 0, 255⟩ (chunksOf (encodeStream start₁ idle₁ f ch pick t ps).events)
      (ps.map (operandPixel ch)) := tracks_encodeStream hidle₁ fun _ => rfl
  have htracks := hencoder.of_sameCacheUse huse ((decodeStream_out hidle₂).symm.trans hout)
  obtain ⟨-, hhistory⟩ := decodeStream_of_tracks hidle₂ htracks false u
  rw [hhistory, encodeStream_history_fresh hidle₁]

/-- Settles O45: no encoder's form is seen in the chunks or the slots, and both decoders of chunks that track
pixels do as if each pixel were stored. -/
theorem leftOutStoresChangeNothing : Obligations.LeftOutStoresChangeNothing := by
  unfold Obligations.LeftOutStoresChangeNothing
  intro start₁ start₂ idle₁ idle₂ single ch pick init t u ps hidle₁ hidle₂ hinit
  have htracks : Tracks clearedSlots init
      (chunksOf (encodeStream start₁ idle₁ ⟨single, false⟩ ch pick t ps).events)
      (ps.map (operandPixel ch)) := tracks_encodeStream hidle₁ hinit
  obtain ⟨hout, hhistory⟩ := decodeStream_of_tracks (start := start₂) hidle₂ htracks true u
  obtain ⟨hout', hhistory'⟩ := decodeStream_of_tracks (start := start₂) hidle₂ htracks false u
  refine ⟨?chunks, ?slots, hout.trans hout'.symm, hhistory.trans hhistory'.symm⟩
  case chunks =>
    rw [encodeStream_chunks, encodeStream_chunks]
    exact encodeFrom_chunks_congr (Encoder.init_prevHeld _) _
  case slots => rw [encodeStream_history, encodeStream_history]

end Sys2Proof.Machine
end

section
/-! SUPPORT. Proofs about what the clients send and get back, about the sentinel in a stream, and about the
fresh start (R90, R100, R106). -/

namespace Sys2Proof.Machine

/-! ### The sentinel in a stream (R79, R90) -/

/-- Settles O46: the Index check hits where slot 0 holds the sentinel, and READ 0 then gives it back. -/
theorem sentinelHitIsReproduced : Obligations.SentinelHitIsReproduced := by
  unfold Obligations.SentinelHitIsReproduced
  refine ⟨fun f ch pick t q run last hq hzero => ⟨?chunk, ?decoder⟩, fun start f pick t => ?first⟩
  case chunk =>
    rw [encodePixel_new rfl hq.symm, encodeNew_chunks, slotHash_sentinel, if_pos hzero, List.getLast?_concat]
  case decoder => rw [decodeIndex_eq, hzero]
  case first =>
    rw [encodeStream_chunks]
    rfl

/-! ### Conforming words and their responses (R53, R93, R100) -/

/-- A client's exchange whose command is not of the reserved class. -/
def Exchange.Conforming (x : Exchange) : Prop :=
  ∃ t i, isReserved i = false ∧ x = (ask t i).2

theorem ask_conforming (t : SlotArray) {i : Instr} (h : isReserved i = false) : (ask t i).2.Conforming :=
  ⟨t, i, h, rfl⟩

theorem ask_store_conforming (t : SlotArray) (p : Pixel) : (ask t (.store p)).2.Conforming :=
  ask_conforming t rfl

/-- R53, R100: the word has no reserved opcode and zero in the reserved bits. -/
theorem Exchange.Conforming.cmd {x : Exchange} (h : x.Conforming) : conformingWord x.cmd = true := by
  obtain ⟨t, i, hi, rfl⟩ := h
  have hcmd : (ask t i).2.cmd = encode i := rfl
  rw [conformingWord, hcmd, decode_encode, Command.unpack_encode, hi]
  rfl

/-- R93, R95: and so its response is no error. -/
theorem Exchange.Conforming.err {x : Exchange} (h : x.Conforming) : x.reply.err = false := by
  obtain ⟨t, i, hi, rfl⟩ := h
  rw [ask_reply, transact_rsp_err, hi]

/-- R100: a stream of conforming exchanges is not aborted. -/
theorem settle_of_conforming {α : Type} {xs : List Exchange} (h : ∀ x ∈ xs, x.Conforming) (out : α) :
    settle xs out = .finished out := by
  have hany : xs.any (fun x => x.reply.err) = false := by
    rw [List.any_eq_false]
    exact fun x hx => by simp [(h x hx).err]
  rw [settle, hany, if_neg Bool.false_ne_true]

/-- R100: one error response aborts the stream. -/
theorem settle_of_err {α : Type} {xs : List Exchange} {x : Exchange} (hx : x ∈ xs)
    (herr : x.reply.err = true) (out : α) : settle xs out = .aborted :=
  if_pos (List.any_eq_true.mpr ⟨x, hx, herr⟩)

theorem isReserved_of_isQuiet {i : Instr} (h : isQuiet i = true) : isReserved i = false := by
  cases i with
  | reserved110 | reserved111 => exact nomatch h
  | _ => rfl

theorem askAll_conforming {is : List Instr} (h : ∀ i ∈ is, isReserved i = false) (t : SlotArray) :
    ∀ x ∈ (askAll t is).2, x.Conforming := by
  induction is generalizing t with
  | nil => exact fun _ hx => nomatch hx
  | cons i is ih =>
    obtain ⟨hi, his⟩ := List.forall_mem_cons.mp h
    exact List.forall_mem_cons.mpr ⟨ask_conforming t hi, ih his _⟩

theorem freshen_conforming (start : Start) {idle : List Instr} (h : ∀ i ∈ idle, isQuiet i = true)
    (t : SlotArray) : ∀ x ∈ (freshen start idle t).2, x.Conforming := by
  have hidle : ∀ i ∈ idle, isReserved i = false := fun i hi => isReserved_of_isQuiet (h i hi)
  cases start with
  | reset => exact askAll_conforming hidle _
  | clear => exact askAll_conforming (List.forall_mem_cons.mpr ⟨rfl, hidle⟩) t

/-- R79 to R82, R89: for one pixel an encoder sends LOOKUP and STORE at most. -/
theorem encodePixel_conforming (f : EncoderForm) (ch : Channels) (pick : Pixel → Pixel → CodedKind)
    (t : SlotArray) (e : Encoder) (last : Bool) (p : Pixel) :
    ∀ x ∈ exchangesOf (encodePixel f ch pick t e last p).events, x.Conforming := by
  have hlookup : (ask t (.lookup p)).2.Conforming := ask_conforming t rfl
  have hstore := ask_store_conforming t p
  obtain h | h | ⟨q, h, hne⟩ := e.prev_cases p
  · rw [encodePixel_first h, encodeFirst]
    exact List.forall_mem_singleton.mpr hstore
  · rw [encodePixel_repeat h, encodeRepeat_eq]
    split_ifs <;> simp [hstore]
  · rw [encodePixel_new h hne, encodeNew_eq]
    split_ifs <;> simp [hlookup, hstore]

theorem encodeFrom_conforming (f : EncoderForm) (ch : Channels) (pick : Pixel → Pixel → CodedKind)
    (t : SlotArray) (e : Encoder) (ps : List Pixel) :
    ∀ x ∈ exchangesOf (encodeFrom f ch pick t e ps).events, x.Conforming := by
  induction ps generalizing t e with
  | nil => exact fun _ hx => nomatch hx
  | cons p ps ih =>
    simp only [encodeFrom, exchangesOf_append]
    exact List.forall_mem_append.mpr ⟨encodePixel_conforming f ch pick t e _ p, ih _ _⟩

theorem decodeRunStoring_conforming (t : SlotArray) (prev : Pixel) (n : Nat) :
    ∀ x ∈ (decodeRunStoring t prev n).exchanges, x.Conforming := by
  induction n generalizing t with
  | zero => exact fun _ hx => nomatch hx
  | succ n ih => exact List.forall_mem_cons.mpr ⟨ask_store_conforming t prev, ih _⟩

/-- R84 to R86, R89: for one chunk a decoder sends READ and STOREs at most. -/
theorem decodeChunk_conforming (storing : Bool) (t : SlotArray) (prev : Pixel) (c : Chunk) :
    ∀ x ∈ (decodeChunk storing t prev c).exchanges, x.Conforming := by
  cases c with
  | index k =>
    have hread : (ask t (.read k)).2.Conforming := ask_conforming t rfl
    cases storing with
    | false => exact List.forall_mem_singleton.mpr hread
    | true => exact List.forall_mem_cons.mpr ⟨hread, List.forall_mem_singleton.mpr (ask_store_conforming ..)⟩
  | run n =>
    cases storing with
    | false => exact fun _ hx => nomatch hx
    | true => exact decodeRunStoring_conforming t prev n
  | _ => exact List.forall_mem_singleton.mpr (ask_store_conforming ..)

theorem decodeFrom_conforming (storing : Bool) (t : SlotArray) (prev : Pixel) (cs : List Chunk) :
    ∀ x ∈ (decodeFrom storing t prev cs).exchanges, x.Conforming := by
  induction cs generalizing t prev with
  | nil => exact fun _ hx => nomatch hx
  | cons c cs ih => exact List.forall_mem_append.mpr ⟨decodeChunk_conforming storing t prev c, ih _ _⟩

/-- Settles O49: every exchange of either client is a conforming one, from the fresh start on. -/
theorem conformingClientsNeverAbort : Obligations.ConformingClientsNeverAbort := by
  unfold Obligations.ConformingClientsNeverAbort
  refine ⟨fun start idle f ch pick t ps hidle => ?encoder, fun start idle storing init t cs hidle => ?decoder,
    fun xs x ps hx herr => settle_of_err hx herr ps⟩
  case encoder =>
    rw [encodeStream_exchanges]
    have hall := List.forall_mem_append.mpr ⟨freshen_conforming start hidle t, encodeFrom_conforming f ch pick
      (freshen start idle t).1 Encoder.init (ps.map (operandPixel ch))⟩
    exact ⟨fun x hx => (hall x hx).cmd, settle_of_conforming hall ps⟩
  case decoder =>
    have hall := List.forall_mem_append.mpr ⟨freshen_conforming start hidle t,
      decodeFrom_conforming storing (freshen start idle t).1 init cs⟩
    exact ⟨fun x hx => (hall x hx).cmd, settle_of_conforming hall cs⟩

/-! ### The fresh start (R28, R76, R106) -/

/-- R106: CLEAR makes the slots that reset does, and commands after either, quiet or not, run alike. -/
theorem freshen_clear_slots (idle : List Instr) (t u : SlotArray) :
    (freshen .clear idle t).1 = (freshen .reset idle u).1 := by
  simp only [freshen, askAll_slots, runInstrs_cons, transact_clear_slots]

/-- A pixel left in the slots by an earlier stream: not the sentinel, and not at home in slot 0. -/
def oldPixel : Pixel := ⟨1, 0, 0, 0⟩

/-- The slots that the earlier stream left. -/
def oldSlots : SlotArray := writeSlot clearedSlots (slotHash oldPixel) oldPixel

theorem oldPixel_ne_sentinel : oldPixel ≠ Config.sentinel := by decide

theorem slotHash_oldPixel_ne_zero : slotHash oldPixel ≠ 0 := by decide

/-- A store of the sentinel, at home in slot 0, leaves the old pixel's slot alone. -/
theorem readSlot_oldPixel_of_sentinel_stored (t : SlotArray) :
    readSlot (writeSlot t (slotHash Config.sentinel) Config.sentinel) (slotHash oldPixel)
      = readSlot t (slotHash oldPixel) := by
  rw [slotHash_sentinel, readSlot_writeSlot_ne _ _ slotHash_oldPixel_ne_zero]

/-- R106: where the old pixel is still held, an encoder emits an Index chunk for it. -/
theorem encodeFrom_chunks_of_old (f : EncoderForm) (pick : Pixel → Pixel → CodedKind) :
    chunksOf (encodeFrom f .rgba pick oldSlots Encoder.init [Config.sentinel, oldPixel]).events
      = [.literalRgba Config.sentinel, .index (slotHash oldPixel)] := by
  have hheld : readSlot (writeSlot oldSlots (slotHash Config.sentinel) Config.sentinel) (slotHash oldPixel)
      = oldPixel := by
    rw [readSlot_oldPixel_of_sentinel_stored, oldSlots, readSlot_writeSlot_same]
  rw [encodeFrom_cons_chunks, encodePixel_slots (Encoder.init_prevHeld oldSlots), encodePixel_first rfl,
    encodeFrom_cons_chunks, encodePixel_new rfl oldPixel_ne_sentinel, encodeNew_chunks, if_pos hheld]
  rfl

/-- R106: from a fresh start that Index chunk reads the sentinel. -/
theorem decodeFrom_out_of_old (prev : Pixel) :
    (decodeFrom false clearedSlots prev [.literalRgba Config.sentinel, .index (slotHash oldPixel)]).out
      = [Config.sentinel, Config.sentinel] := by
  have hliteral : (Chunk.literalRgba Config.sentinel).formed prev = some Config.sentinel := rfl
  have hindex : (decodeIndex (storeAll clearedSlots [Config.sentinel]) (slotHash oldPixel)).out
      = [Config.sentinel] := by
    rw [decodeIndex_eq, storeAll_cons, storeAll_nil, readSlot_oldPixel_of_sentinel_stored, readSlot_clearedSlots]
  rw [(decodeChunk_stores_of_formed hliteral).decodeFrom_cons_out]
  simp only [decodeFrom, decodeChunk, Bool.false_eq_true, if_false, hindex, List.append_nil,
    List.singleton_append]

/-- Settles O50: the two fresh starts leave equal slots; without one the encoder's Index chunk may name a slot
that at the decoder is still the sentinel. -/
theorem freshStartIsNeeded : Obligations.FreshStartIsNeeded := by
  unfold Obligations.FreshStartIsNeeded
  refine ⟨fun idle f ch pick t u ps => ⟨?chunks, ?slots⟩, fun f pick init =>
    ⟨oldSlots, [Config.sentinel, oldPixel], ?differs⟩⟩
  case chunks => rw [encodeStream_chunks, encodeStream_chunks, freshen_clear_slots idle t u]
  case slots => rw [encodeStream_history, encodeStream_history, freshen_clear_slots idle t u]
  case differs =>
    rw [encodeFrom_chunks_of_old, decodeFrom_out_of_old]
    decide

end Sys2Proof.Machine
end
